-- ==== Sys2Proof/Word.lean ====
section
/-! DEFINITION. The two widths the spec fixes (00_scope.md rule R5): a byte of 8 bits and an address of 16 bits. -/

namespace Sys2Proof

/-- One memory cell, one general register, one opcode or operand byte (R5, R7, R30). -/
abbrev Byte := BitVec 8

/-- A 16-bit unsigned address; the width of the program counter and of the stack pointer (R5, R12, R15).
Addition on it is modulo 65,536 (R7, R14). -/
abbrev Addr := BitVec 16

end Sys2Proof
end

