-- ==== Sys2Proof/Config.lean ====
section
/-! DEFINITION. What an implementation fixes: the parameters of 00_scope.md rule R6 as a record, and the architectural
constants of rule R5. The values this model runs with are `Config.chosen`, in Decode.lean.

This hardware has no free value: the spec gives every 'undefined' of its list U1 to U16 (93_implementation_defined.md) an
exact treatment, so no opaque constant stands here. -/

namespace Sys2Proof

/-- The parameter `BUDGET_POLICY` (R6): what `Idle` does when the next instruction costs more than the remaining budget.
`overrun` is rule R95, `defer` is rule R96. -/
inductive BudgetPolicy where
  | overrun
  | defer
  deriving DecidableEq, Repr

/-- The parameters of rule R6 that a model takes: the two opcode bytes and the budget policy. -/
structure Config where
  /-- `OPC_LDA_IMM`, the opcode byte of LDA immediate. -/
  opcLdaImm : Byte
  /-- `OPC_LDA_ZP`, the opcode byte of LDA zero-page. -/
  opcLdaZp : Byte
  /-- `BUDGET_POLICY`. -/
  policy : BudgetPolicy
  deriving DecidableEq, Repr

/-- The program counter after reset: the constant 0xFFFC itself, no pointer is loaded (R5, R126). -/
def Config.resetPc : Addr := 0xFFFC

/-- The stack pointer after reset (R5, R15, R126). -/
def Config.resetSp : Addr := 0x0100

/-- What `MemInit` leaves in every cell (R31): the byte an unlisted address of `Memory` reads as. -/
def Config.clearedByte : Byte := 0x00

/-- The number of memory cells (R5, R30). -/
def Config.memCells : Nat := 65536

end Sys2Proof
end

