-- ==== Sys2Proof/Syntax.lean ====
section
/-! DEFINITION. The instructions: one constructor per row of spec/opcode_table.json, and the two names a row is made of,
its addressing mode and its operation. -/

namespace Sys2Proof

/-- The two addressing modes (R2, R52, R53). -/
inductive Mode where
  | immediate
  | zeroPage
  deriving DecidableEq, Repr

/-- The one operation of the hardware (R2, R82). -/
inductive Operation where
  | loadAccumulator
  deriving DecidableEq, Repr

/-- The instruction set (R2, R54): LDA in two addressing modes, each with its operand byte (R50). -/
inductive Instr where
  /-- `LDA #imm` (R80), row LDA__imm. -/
  | ldaImm (imm : Byte)
  /-- `LDA zp` (R81), row LDA_zp. -/
  | ldaZp (zp : Byte)
  deriving DecidableEq, Repr

/-- The addressing mode an instruction declares (R54). -/
def Instr.mode : Instr → Mode
  | .ldaImm _ => .immediate
  | .ldaZp _ => .zeroPage

/-- The operand byte of an instruction: byte 1 of format `OB` (R50). -/
def Instr.operand : Instr → Byte
  | .ldaImm imm => imm
  | .ldaZp zp => zp

end Sys2Proof
end

