-- ==== Sys2Proof/WellFormed.lean ====
section
/-! DEFINITION. Which instructions and which parameters are well formed. -/

namespace Sys2Proof

/-- Every operand byte is legal in both modes (R57: 'all 256 values are legal in both modes'), so no instruction of the
syntax is ill formed. One arm per constructor: a later row with a reserved operand value is checked here. -/
def Instr.wf : Instr → Bool
  | .ldaImm _ => true
  | .ldaZp _ => true

/-- The one constraint between parameters (R6): `OPC_LDA_IMM != OPC_LDA_ZP`. -/
def Config.wf (c : Config) : Bool :=
  c.opcLdaImm != c.opcLdaZp

end Sys2Proof
end

