-- ==== Sys2Proof/Decode.lean ====
section
/-! DEFINITION. The static opcode table, the decoder, total on any two bytes, and the encoder (30_encoding.md), with the
parameter values the model runs with. -/

namespace Sys2Proof

/-- The parameter values of rule R6. PRESUMED: the opcode bytes 0xA9 and 0xA5 are from general knowledge and not in the
source, as the spec itself says (decision D1, G1); notes/assumptions/1.md. DESIGN CHOICE: the policy `overrun` is the
spec's own decision D2; notes/assumptions/2.md. Every function below takes the parameters as an argument. -/
def Config.chosen : Config where
  opcLdaImm := 0xA9
  opcLdaZp := 0xA5
  policy := .overrun

/-- One entry of the static opcode table `OPTAB` (R54), with its entry of the static cost table (R71). -/
structure Row where
  opcode : Byte
  mode : Mode
  operation : Operation
  bytes : Nat
  cycles : Nat
  deriving DecidableEq, Repr

/-- `OPTAB` (R54, R71): exactly two entries. -/
def optab (c : Config) : List Row :=
  [ { opcode := c.opcLdaImm, mode := .immediate, operation := .loadAccumulator, bytes := 2, cycles := 2 },
    { opcode := c.opcLdaZp, mode := .zeroPage, operation := .loadAccumulator, bytes := 2, cycles := 3 } ]

/-- `decode` of rule R55 on the opcode byte: the row whose key is the WHOLE byte (R51), `none` for an unknown opcode. -/
def decodeOpcode (c : Config) (op : Byte) : Option Row :=
  (optab c).find? (fun row => row.opcode == op)

/-- The instruction a row stands for, with its operand byte (R50, R54). -/
def Row.instr (row : Row) (operand : Byte) : Instr :=
  match row.operation, row.mode with
  | .loadAccumulator, .immediate => .ldaImm operand
  | .loadAccumulator, .zeroPage => .ldaZp operand

/-- The decoder's verdict (R55): an instruction, or the opcode byte rejected by name (R56). -/
inductive Decoded where
  | known (i : Instr)
  | unknownOpcode (op : Byte)
  deriving DecidableEq, Repr

/-- Decoding the two bytes of format `OB` (R50): the opcode byte alone decides (R58), the operand byte is taken whole
(R52, R53). -/
def decode (c : Config) (op operand : Byte) : Decoded :=
  match decodeOpcode c op with
  | some row => .known (row.instr operand)
  | none => .unknownOpcode op

/-- The opcode byte of an instruction (R54). -/
def Instr.opcode (c : Config) : Instr → Byte
  | .ldaImm _ => c.opcLdaImm
  | .ldaZp _ => c.opcLdaZp

/-- The two bytes of an instruction, the opcode first (R50): `oooooooo bbbbbbbb`. -/
def encode (c : Config) (i : Instr) : Byte × Byte :=
  (i.opcode c, i.operand)

/-- The two bytes of an instruction whose bits are `w`, of which the table gives the lowest `nbits`: byte 0 is bits 7..0,
byte 1 is bits 15..8, and a bit above `nbits` is 0. -/
def tableBytes (nbits w : Nat) : Byte × Byte :=
  (BitVec.ofNat 8 (w % 2 ^ nbits), BitVec.ofNat 8 (w % 2 ^ nbits / 256))

/-- What the decoder reads from an instruction whose bits are numbered as spec/opcode_table.json numbers them. -/
def decodeTableWord (nbits w : Nat) : Option Instr :=
  match decode Config.chosen (tableBytes nbits w).1 (tableBytes nbits w).2 with
  | .known i => some i
  | .unknownOpcode _ => none

end Sys2Proof
end

