-- ==== Sys2Proof/Machine/State.lean ====
section
/-! DEFINITION. The machine's state as plain data, the reasons a step can stop, and the state after reset
(10_state.md, 20_memory.md). -/

namespace Sys2Proof.Machine

open Sys2Proof

/-- The five states of the dispatch sequencer (R19). -/
inductive Seq where
  | idle
  | fetching
  | decoding
  | executing
  | halted
  deriving DecidableEq, Repr

/-- Why the sequencer last entered `Halted` (R21, R105). -/
inductive Cause where
  /-- No halt since `Reset` or since `Execute` started; code 0. -/
  | none
  /-- The budget is exhausted at an instruction boundary (R111); code 1. -/
  | outOfBudget
  /-- The opcode byte is no key of the opcode table (R106); code 2. -/
  | unknownOpcode
  /-- An address outside the memory; no state of this model raises it (R107); code 3. -/
  | addressOutOfRange
  deriving DecidableEq, Repr

/-- What `raise Halt(c, info)` is given (R108): the cause, and for `UnknownOpcode` the opcode byte. -/
inductive HaltReason where
  | outOfBudget
  | unknownOpcode (op : Byte)
  | addressOutOfRange
  deriving DecidableEq, Repr

/-- The seven flags, each an independent 1-bit register, with no packed form and no bit positions (R16, R18). -/
structure Flags where
  /-- carry -/
  c : Bool
  /-- zero -/
  z : Bool
  /-- interrupt-disable -/
  i : Bool
  /-- decimal-mode -/
  d : Bool
  /-- break -/
  b : Bool
  /-- overflow -/
  v : Bool
  /-- negative -/
  n : Bool
  deriving DecidableEq, Repr

/-- A move of the host that changes something (R25, R137). Its fourth move, reading, changes nothing: `State.observe`. -/
inductive HostCommand where
  /-- `Reset` (R126). -/
  | reset
  /-- `Execute(budget)` (R86): the budget is any integer (R85). -/
  | execute (budget : Int)
  /-- The loader's `MemWrite(addr, 1, v)` (R33, R131): `addr16` (R137). -/
  | write (addr : Addr) (v : Byte)
  deriving DecidableEq, Repr

/-- The 65,536 byte cells (R30) as the list of those that do not hold `Config.clearedByte`, addresses strictly rising
(`Memory.wf`). An unlisted address reads as what `MemInit` leaves (R31). -/
abbrev Memory := List Host.Cell

/-- The complete state of one engine instance and of the memory attached to it (the tuple at the head of 10_state.md). The
last three fields are the MODEL's own and not the spec's state: the diagnostic stream, an output (R23); the host's commands,
an input; and whether the instance has been reset, on which R27 and R86 rest. -/
structure State where
  /-- `x[A]`, the accumulator (R10). -/
  a : Byte
  /-- `x[X]`, index-X (R10). -/
  x : Byte
  /-- `x[Y]`, index-Y (R10). -/
  y : Byte
  /-- The program counter (R12). -/
  pc : Addr
  /-- The stack pointer (R15). -/
  sp : Addr
  /-- The seven flags (R16). -/
  flags : Flags
  /-- The memory array `M` (R30). -/
  mem : Memory
  /-- The sequencer's state (R19). -/
  seq : Seq
  /-- The remaining cycle budget, a signed integer without bound (R20). -/
  rem : Int
  /-- The halt cause (R21). -/
  cause : Cause
  /-- The opcode latch (R22). -/
  ir : Byte
  /-- The events `Diag(b)` emitted so far, oldest first (R23, R110). -/
  diag : List Byte
  /-- The host's commands that the machine has not taken yet, the next one first (R25, R137). -/
  commands : List HostCommand
  /-- Whether a `Reset` has been taken since the instance was created (R27, R86). -/
  initialised : Bool
  deriving DecidableEq, Repr

/-- Why the machine stops with a fault. -/
inductive Fault where
  /-- An address outside 0..65535 presented to the memory (R34, R107). Raised by the memory component's checked accesses
  `Memory.readChecked` and `Memory.writeChecked` only; no step raises it, since every address of a step is 16 bits wide.
  Safe: it can only stop a run. -/
  | addressOutOfRange
  deriving DecidableEq, Repr

/-- Why the machine has no meaning for what it is asked. -/
inductive Refusal where
  /-- An instruction of the opcode table that has no meaning yet; raised by an arm of `exec` only, and no arm does. Safe. -/
  | notModelled (mnemonic : String)
  /-- The host's `Execute` on an instance that has never been reset (R27, decision D8); raised by `hostTurn`. Safe. -/
  | neverReset
  deriving DecidableEq, Repr

/-- The machine right after reset (R26, R126). DESIGN CHOICE: `seq`, `rem`, `cause` and `ir` are at the values of the spec's
own decision D5 (notes/assumptions/5.md); the model's own fields are an empty stream, no command and `true`
(notes/assumptions/7.md to 9.md). -/
def State.reset : State where
  a := 0x00
  x := 0x00
  y := 0x00
  pc := Config.resetPc
  sp := Config.resetSp
  flags := { c := false, z := false, i := false, d := false, b := false, v := false, n := false }
  mem := []
  seq := .halted
  rem := 0
  cause := .none
  ir := 0x00
  diag := []
  commands := []
  initialised := true

end Sys2Proof.Machine
end

