-- ==== Sys2Proof/Machine/Ops.lean ====
section
/-! DEFINITION. The named operations over memory, program counter, budget and sequencer, and taking a halt, the one
exceptional event of this hardware (20_memory.md, 40_engine_primitives.md, 60_exceptions.md, 70_reset_and_hazards.md). -/

namespace Sys2Proof.Machine

open Sys2Proof

/-! ### The memory component -/

/-- `MemInit()`: every cell holds zero (R31). -/
def Memory.init : Memory := []

/-- `MemRead`: the byte in a cell (R32); a pure lookup. -/
def Memory.read : Memory → Nat → Byte
  | [], _ => Config.clearedByte
  | (b, w) :: m, a => if a = b then w else Memory.read m a

/-- `MemWrite`: store a byte in a cell (R33), keeping the canonical form: a cell that becomes `Config.clearedByte` is no
longer listed. -/
def Memory.write : Memory → Nat → Byte → Memory
  | [], a, v => if v = Config.clearedByte then [] else [(a, v)]
  | (b, w) :: m, a, v =>
    if a < b then
      if v = Config.clearedByte then (b, w) :: m else (a, v) :: (b, w) :: m
    else if a = b then
      if v = Config.clearedByte then m else (a, v) :: m
    else
      (b, w) :: Memory.write m a v

/-- The canonical form above the address `lo`: addresses strictly rising and at least `lo`, all inside the memory, no entry
equal to what an unlisted address reads as. -/
def Memory.wfFrom : Nat → Memory → Bool
  | _, [] => true
  | lo, (a, v) :: m =>
    decide (lo ≤ a) && decide (a < Config.memCells) && v != Config.clearedByte && Memory.wfFrom (a + 1) m

/-- The canonical form of a memory. -/
def Memory.wf (m : Memory) : Bool :=
  Memory.wfFrom 0 m

/-- The memory component's `Read` on any index (R34): defined in range only; out of range is a contract violation, never a
wrapped address and never a value. -/
def Memory.readChecked (m : Memory) (a : Nat) : Except Fault Byte :=
  if a < Config.memCells then .ok (Memory.read m a) else .error .addressOutOfRange

/-- The memory component's `Write` on any index (R34). -/
def Memory.writeChecked (m : Memory) (a : Nat) (v : Byte) : Except Fault Memory :=
  if a < Config.memCells then .ok (Memory.write m a v) else .error .addressOutOfRange

/-! ### The engine's bus side -/

/-- `MemRead(addr, 1)` as the engine issues it, on a 16-bit address (R32, R35). -/
def State.readByte (s : State) (addr : Addr) : Byte :=
  Memory.read s.mem addr.toNat

/-- `MemWrite(addr, 1, v)` as the host's loader issues it, on a 16-bit address (R33, R131). -/
def State.writeByte (s : State) (addr : Addr) (v : Byte) : State :=
  { s with mem := Memory.write s.mem addr.toNat v }

/-- What `Fetch()` writes, of which `fetch` is the one caller (R65): `pc` plus one, modulo 65,536 (R14; DEDUCED, the spec's decision D3,
notes/assumptions/3.md), and `rem` minus one. It does not test `rem`. -/
def State.consume (s : State) : State :=
  { s with pc := s.pc + 1, rem := s.rem - 1 }

/-- `Fetch()`, the one byte-consumption primitive (R65): the byte at `pc`, and the state after. Every byte the program counter
consumes goes through it (R66): the opcode and the operand byte that the step decodes (`State.decoded`), the fetches an
instruction's meaning performs (`execLdaImm`, `execLdaZp`, `operandImmediate`, `operandZeroPage`), those of the five-state
sequencer (`fetchOpcode`, `resolve`) and of a rejected opcode (`rejectOpcode`). -/
def fetch (s : State) : Byte × State :=
  (s.readByte s.pc, s.consume)

/-- One cycle spent without a fetch: the cost of the zero-page dereference (R68). -/
def State.spendCycle (s : State) : State :=
  { s with rem := s.rem - 1 }

/-- The accumulator's one writer among the instructions: `x[A] <- v` (R11). -/
def State.setA (s : State) (v : Byte) : State :=
  { s with a := v }

/-! ### The sequencer's registers -/

/-- `ir <- op` (R22, R89). -/
def State.latch (s : State) (op : Byte) : State :=
  { s with ir := op }

/-- `seq <- q` (R87). -/
def State.setSeq (s : State) (q : Seq) : State :=
  { s with seq := q }

/-- The numeric code of a halt cause (R6, R105; the spec's decision D6). -/
def Cause.code : Cause → Nat
  | .none => 0
  | .outOfBudget => 1
  | .unknownOpcode => 2
  | .addressOutOfRange => 3

/-- The cause a halt records (R105). -/
def HaltReason.cause : HaltReason → Cause
  | .outOfBudget => .outOfBudget
  | .unknownOpcode _ => .unknownOpcode
  | .addressOutOfRange => .addressOutOfRange

/-- The diagnostic events a halt emits: `Diag(info)` for `UnknownOpcode`, nothing otherwise (R108, R110). -/
def HaltReason.events : HaltReason → List Byte
  | .outOfBudget => []
  | .unknownOpcode op => [op]
  | .addressOutOfRange => []

/-- `raise Halt(c, info)`, the whole entry mechanism (R108): emit, record the cause, enter `Halted`. Nothing is saved and
nothing is vectored: `pc`, `sp`, the flags and memory stay. -/
def raiseHalt (r : HaltReason) (s : State) : State :=
  { s with diag := s.diag ++ r.events, cause := r.cause, seq := .halted }

/-- The way out of a halt, this hardware's return from an exception (R115): `Execute(budget)` loads the budget, clears the
cause and enters `Idle`; nothing else is initialised (R86). -/
def startRun (budget : Int) (s : State) : State :=
  { s with rem := budget, cause := .none, seq := .idle }

/-- The reset action (R126): every piece of state at its constant, memory by `MemInit`. The diagnostic stream is an output
and stays (decision D12), and so do the commands the host has yet to issue. -/
def resetAction (s : State) : State :=
  { State.reset with mem := Memory.init, diag := s.diag, commands := s.commands }

end Sys2Proof.Machine
end

