-- ==== Sys2Proof/Machine/Operands.lean ====
section
/-! DEFINITION. The two addressing modes (40_engine_primitives.md rules R67 and R68, 30_encoding.md rules R52 and R53). -/

namespace Sys2Proof.Machine

open Sys2Proof

/-- The address a zero-page operand names: `{0x00, operand}` (R53, R68). -/
def zeroPageAddr (operand : Byte) : Addr :=
  operand.zeroExtend 16

/-- The second engine-internal step of zero-page resolution (R68): read the cell the address byte names and pay one cycle;
a `MemRead`, not a `Fetch()`. -/
def dereference (operand : Byte) (s : State) : Byte × State :=
  (s.readByte (zeroPageAddr operand), s.spendCycle)

/-- `Resolve(mode)` with `pc` at the operand byte, as the sequencer's `Executing` state runs it (R67, R68). -/
def resolve (m : Mode) (s : State) : Byte × State :=
  match m with
  | .immediate => fetch s
  | .zeroPage => dereference (fetch s).1 (fetch s).2

/-- `Resolve(immediate)` of an instruction whose operand byte the decoder has read (R67): that byte is the value, and
`Fetch()` consumes it (R66). -/
def operandImmediate (imm : Byte) (s : State) : Byte × State :=
  (imm, (fetch s).2)

/-- `Resolve(zero-page)` of an instruction whose address byte the decoder has read (R68): `Fetch()` consumes it (R66), then
the dereference. -/
def operandZeroPage (zp : Byte) (s : State) : Byte × State :=
  dereference zp (fetch s).2

/-- The effective operand value of an instruction (R52, R53). -/
def operandValue (i : Instr) (s : State) : Byte :=
  match i with
  | .ldaImm imm => imm
  | .ldaZp zp => s.readByte (zeroPageAddr zp)

end Sys2Proof.Machine
end

