-- ==== Sys2Proof/Machine/Flags.lean ====
section
/-! DEFINITION. The one shared flag routine (40_engine_primitives.md rules R69 and R70). -/

namespace Sys2Proof.Machine

open Sys2Proof

/-- `SetZN(r)` (R69): zero is `r == 0x00`, negative is `r[7]`; no other flag is written. -/
def setZN (r : Byte) (s : State) : State :=
  { s with flags := { s.flags with z := r == 0x00, n := r.msb } }

end Sys2Proof.Machine
end

