-- ==== Sys2Proof/Machine/LoadAccumulator.lean ====
section
/-! DEFINITION. The load-accumulator family (41_load_accumulator.md). Each meaning is the whole instruction from the
instruction boundary, as rules R80 and R81 are written: it starts with `pc` at the opcode byte, fetches it, and resolves its
operand, each byte by `Fetch()` (R66). The latch of the opcode in `ir` and the budget test are the sequencer's (R88, R89). -/

namespace Sys2Proof.Machine

open Sys2Proof

/-- The operation both members share (R82): `x[A] <- v`, then `SetZN(x[A])`. -/
def opLda (v : Byte) (s : State) : State :=
  setZN v (s.setA v)

/-- `LDA #imm` (R80). -/
def execLdaImm (imm : Byte) (s : State) : Host.Outcome State Fault Refusal :=
  .next (opLda (operandImmediate imm (fetch s).2).1 (operandImmediate imm (fetch s).2).2)

/-- `LDA zp` (R81). -/
def execLdaZp (zp : Byte) (s : State) : Host.Outcome State Fault Refusal :=
  .next (opLda (operandZeroPage zp (fetch s).2).1 (operandZeroPage zp (fetch s).2).2)

end Sys2Proof.Machine
end

