-- ==== Sys2Proof/Machine/HostPort.lean ====
section
/-! DEFINITION. The host's side of the machine: its commands, when they are taken, and what it may read (10_state.md rule
R25, 70_reset_and_hazards.md rules R126 to R138). -/

namespace Sys2Proof.Machine

open Sys2Proof

/-- The host has control while the engine is halted (R25), and before the first `Reset` (R27, R127). -/
def State.hostHasControl (s : State) : Bool :=
  !s.initialised || s.seq == .halted

/-- The state once the first `commands` entry is taken. -/
def State.dequeue (s : State) : State :=
  { s with commands := s.commands.tail }

/-- The host's move: its next command takes effect; with no command the engine does nothing (R93). `Execute` before any
`Reset` is refused (R27). -/
def hostTurn (s : State) : Host.Outcome State Fault Refusal :=
  match s.commands with
  | [] => .next s
  | .reset :: _ => .next (resetAction s.dequeue)
  | .execute budget :: _ =>
    if s.initialised then .next (startRun budget s.dequeue) else .refused .neverReset
  | .write addr v :: _ => .next (s.dequeue.writeByte addr v)

/-- What the host reads of the engine after a halt (R25, R137; `rem` and `cause` by decision D15). -/
structure Observation where
  a : Byte
  x : Byte
  y : Byte
  pc : Addr
  sp : Addr
  flags : Flags
  rem : Int
  cause : Cause
  deriving DecidableEq, Repr

/-- The host's read of the engine: only while `seq = Halted` and after a `Reset`, and with no effect (R25, R27, R102). -/
def State.observe (s : State) : Option Observation :=
  if s.initialised && s.seq == .halted then
    some { a := s.a, x := s.x, y := s.y, pc := s.pc, sp := s.sp, flags := s.flags, rem := s.rem, cause := s.cause }
  else none

/-- The host's read of one memory cell (R25, R137). -/
def State.observeCell (s : State) (addr : Addr) : Option Byte :=
  if s.initialised && s.seq == .halted then some (s.readByte addr) else none

end Sys2Proof.Machine
end

