-- ==== Sys2Proof/Machine/Sequencer.lean ====
section
/-! DEFINITION. The five-state dispatch sequencer, one transition at a time (42_dispatch_loop.md rules R87 to R96). It
fetches its bytes with `fetch` and resolves its operand with `resolve`, and so is written apart from `exec`; that the two
agree is a statement of its own (R102). -/

namespace Sys2Proof.Machine

open Sys2Proof

/-- The budget test of `Idle`: `rem > 0` under `overrun` (R88, R95); under `defer` also that the instruction at `pc`, looked
at without being consumed, costs no more than `rem`, an unknown opcode being never deferred (R96). -/
def mayStart (c : Config) (s : State) : Bool :=
  match c.policy with
  | .overrun => decide (0 < s.rem)
  | .defer =>
    decide (0 < s.rem) &&
      match decodeOpcode c (s.readByte s.pc) with
      | some row => decide ((row.cycles : Int) ≤ s.rem)
      | none => true

/-- `Idle` (R88, R96). -/
def tickIdle (c : Config) (s : State) : State :=
  if mayStart c s then s.setSeq .fetching else raiseHalt .outOfBudget s

/-- The opcode fetch `ir <- Fetch()` (R89). -/
def fetchOpcode (s : State) : State :=
  (fetch s).2.latch (fetch s).1

/-- `Fetching` (R89). -/
def tickFetching (s : State) : State :=
  (fetchOpcode s).setSeq .decoding

/-- `Decoding` (R90, R91). -/
def tickDecoding (c : Config) (s : State) : State :=
  match decodeOpcode c s.ir with
  | some _ => s.setSeq .executing
  | none => raiseHalt (.unknownOpcode s.ir) s

/-- The operation of a row on its effective operand value (R92, R82). -/
def operate (op : Operation) (v : Byte) (s : State) : State :=
  match op with
  | .loadAccumulator => opLda v s

/-- `Executing` (R92): resolve the operand, run the operation, return to `Idle`. The selected row is the one `ir` still names
(R90). `Executing` is entered on a match only; in a state that no run reaches, where `ir` names no row, it is the decode
failure of R91. -/
def tickExecuting (c : Config) (s : State) : State :=
  match decodeOpcode c s.ir with
  | some row => (operate row.operation (resolve row.mode s).1 (resolve row.mode s).2).setSeq .idle
  | none => raiseHalt (.unknownOpcode s.ir) s

/-- One transition of the sequencer (R87). `Halted` has none of its own (R93). -/
def tick (c : Config) (s : State) : State :=
  match s.seq with
  | .idle => tickIdle c s
  | .fetching => tickFetching s
  | .decoding => tickDecoding c s
  | .executing => tickExecuting c s
  | .halted => s

/-- `k` transitions. -/
def ticks (c : Config) : Nat → State → State
  | 0, s => s
  | k + 1, s => ticks c k (tick c s)

/-- How many transitions lead from a state of the sequencer to the next instruction boundary or halt (R87). -/
def Seq.ticksLeft : Seq → Nat
  | .idle => 4
  | .fetching => 3
  | .decoding => 2
  | .executing => 1
  | .halted => 0

end Sys2Proof.Machine
end

