-- ==== Sys2Proof/Machine/Engine.lean ====
section
/-! DEFINITION. One step of the whole machine, over the parameters: the host's move while the engine is halted, one
instruction from an instruction boundary (42_dispatch_loop.md rule R97), and the rest of an instruction from inside one. -/

namespace Sys2Proof.Machine

open Sys2Proof

/-- The decoder's verdict on the two bytes that two `Fetch()` return (R36, R50, R66): the opcode at `pc`, then the operand at
`pc + 1` modulo 65,536. What they write is the instruction's (R80, R81); reads have no effect (R32), so looking past an unknown
opcode consumes nothing (R109). -/
def State.decoded (c : Config) (s : State) : Decoded :=
  decode c (fetch s).1 (fetch (fetch s).2).1

/-- Fetching and rejecting an unknown opcode (R89, R91, R109): the opcode fetch is not undone (decision D14,
notes/assumptions/11.md) and no operand byte is consumed. -/
def rejectOpcode (s : State) : State :=
  raiseHalt (.unknownOpcode (fetch s).1) (fetchOpcode s)

/-- `InstrStep` of rule R97, at an instruction boundary: the budget test first (R112), then decode, then exactly one
operation (R99) with the opcode latched in `ir` (R89). -/
def instrStep (c : Config) (s : State) : Host.Outcome State Fault Refusal :=
  if mayStart c s then
    match s.decoded c with
    | .known i => exec i (s.latch (fetch s).1)
    | .unknownOpcode _ => .next (rejectOpcode s)
  else
    .next (raiseHalt .outOfBudget s)

/-- One step over the parameters `c`. -/
def stepWith (c : Config) (s : State) : Host.Outcome State Fault Refusal :=
  if s.hostHasControl then hostTurn s
  else
    match s.seq with
    | .idle => instrStep c s
    | q => .next (ticks c q.ticksLeft s)

/-- A budget that covers the dearest instruction (R71), for `placeWord`. -/
def placeBudget : Int := 3

/-- `s` with the instruction of the bits `w` loaded at `pc` and a run started on it, as a host would do it by two `MemWrite`
and an `Execute` (R131, R86): what `State.withFetchWord` answers. -/
def placeWord (s : State) (nbits w : Nat) : State :=
  startRun placeBudget
    { ((s.writeByte s.pc (tableBytes nbits w).1).writeByte (s.pc + 1) (tableBytes nbits w).2) with initialised := true }

end Sys2Proof.Machine
end

