-- ==== Sys2Proof/Machine/Step.lean ====
section
/-! DEFINITION. The machine's step at the chosen parameters, and the placing of an instruction where it fetches. -/

namespace Sys2Proof.Machine

open Sys2Proof

/-- One step of the machine: `stepWith` at `Config.chosen`. -/
def step (s : State) : Host.Outcome State Fault Refusal :=
  stepWith Config.chosen s

/-- `s` with the instruction of the bits `w` where the very next step fetches and runs it (notes/assumptions/14.md). -/
def State.withFetchWord (s : State) (nbits w : Nat) : State :=
  placeWord s nbits w

end Sys2Proof.Machine
end

