-- ==== Sys2Proof/Safety.lean ====
section
/-! DEFINITION. What counts as a safe state, in the terms the statements use. Every predicate is decidable. -/

namespace Sys2Proof.Machine

open Sys2Proof

/-- The engine is to move: the instance has been reset and is not halted (R25, R27, R93). -/
abbrev EngineTurn (s : State) : Prop :=
  s.initialised = true ∧ s.seq ≠ .halted

/-- An instruction boundary of an instance that has been reset (R8, R88). -/
abbrev AtBoundary (s : State) : Prop :=
  s.initialised = true ∧ s.seq = .idle

/-- An instruction boundary at which an instruction starts, under the parameters `c` (R88, R96). -/
abbrev Starts (c : Config) (s : State) : Prop :=
  AtBoundary s ∧ mayStart c s = true

/-- The registers and flags that nothing but `Reset` writes hold their reset values, and the negative flag copies bit 7 of
the accumulator: the invariant of R28. -/
abbrev RegistersInv (s : State) : Prop :=
  s.x = 0x00 ∧ s.y = 0x00 ∧ s.sp = Config.resetSp ∧ s.flags.c = false ∧ s.flags.i = false ∧ s.flags.d = false ∧
    s.flags.b = false ∧ s.flags.v = false ∧ s.flags.n = s.a.msb

/-- The zero flag says whether the accumulator is zero: true from the first completed LDA after a reset on (R28). -/
abbrev ZeroFlagTracksA (s : State) : Prop :=
  s.flags.z = (s.a == 0x00)

/-- A run that goes on has no halt cause, and no cause is `AddressOutOfRange` (R21, R107). -/
abbrev CauseInv (s : State) : Prop :=
  (s.seq ≠ .halted → s.cause = .none) ∧ s.cause ≠ .addressOutOfRange

/-- After an `UnknownOpcode` halt the latch holds the offending byte, which is no key of the opcode table and is the last
event of the diagnostic stream (R22, R91, R110). -/
abbrev UnknownOpcodeRecord (c : Config) (s : State) : Prop :=
  s.cause = .unknownOpcode → decodeOpcode c s.ir = none ∧ s.diag.getLast? = some s.ir

/-- The memory is in its canonical form. -/
abbrev MemoryInv (s : State) : Prop :=
  Memory.wf s.mem = true

/-- The next command is not a `Reset` (for what a reset does not keep). -/
abbrev NoResetNext (s : State) : Prop :=
  s.commands.head? ≠ some .reset

end Sys2Proof.Machine
end

