-- ==== Sys2Proof/Certificates/Slice0/Obligations.lean ====
section
/-! DEFINITION. The statements for the provers. Each docstring names the words of spec/ it rests on; `D<n>` is one of the
spec's own decisions (92_eei_decisions.md). A statement over `stepWith c` holds for every value of the parameters of rule R6;
`step` is `stepWith Config.chosen`. -/

open Sys2Proof Sys2Proof.Machine

/-! ### Reset and the host's commands -/

/-- R125 and R128: `Reset` zeroes the general registers, the flags and memory, sets `pc` to 0xFFFC and `sp` to 0x0100, from any
state in which the host may issue it; the host can issue it again, and a second `Reset` changes nothing but taking the
command. -/
def Obligations.ResetCommandClearsTheMachine : Prop :=
  ∀ s : State, s.hostHasControl = true → s.commands.head? = some .reset →
    ∃ t, step s = .next t ∧ t.a = 0x00 ∧ t.x = 0x00 ∧ t.y = 0x00 ∧
      t.flags = { c := false, z := false, i := false, d := false, b := false, v := false, n := false } ∧
      t.pc = 0xFFFC ∧ t.sp = 0x0100 ∧ (∀ addr : Nat, Memory.read t.mem addr = 0x00) ∧ t.hostHasControl = true ∧
      (t.commands.head? = some .reset → step t = .next { t with commands := t.commands.tail })

/-- The sequencer's registers after `Reset` are the spec's decision D5 (log 5), the stream that stays is D12 (log 9), the
flag `initialised` is the model's (log 7). -/
def Obligations.ResetCommandHaltsTheSequencer : Prop :=
  ∀ s : State, s.hostHasControl = true → s.commands.head? = some .reset →
    ∃ t, step s = .next t ∧ t.seq = .halted ∧ t.rem = 0 ∧ t.cause = .none ∧ t.ir = 0x00 ∧ t.diag = s.diag ∧
      t.commands = s.commands.tail ∧ t.initialised = true

/-- The table of R26 as the constant `State.reset`; its `seq`, `rem`, `cause` and `ir` rows are decision D5 (log 5), and the
model's own fields are choices of the model (log 7 to 9). -/
def Obligations.StateAfterResetIsTheTable : Prop :=
  State.reset.a = 0x00 ∧ State.reset.x = 0x00 ∧ State.reset.y = 0x00 ∧ State.reset.pc = 0xFFFC ∧ State.reset.sp = 0x0100 ∧
    State.reset.flags = { c := false, z := false, i := false, d := false, b := false, v := false, n := false } ∧
    (∀ addr : Addr, State.reset.readByte addr = 0x00) ∧ State.reset.seq = .halted ∧ State.reset.rem = 0 ∧
    State.reset.cause = .none ∧ State.reset.ir = 0x00 ∧ State.reset.diag = [] ∧ State.reset.commands = [] ∧
    State.reset.initialised = true

/-- R86, which rests on the decisions D5 and D7 (log 5, log 6): `Execute(budget)` loads the budget, clears the cause and enters
`Idle`; nothing else is initialised, whatever halt came before. -/
def Obligations.ExecuteStartsARun : Prop :=
  ∀ (s : State) (budget : Int), s.initialised = true → s.seq = .halted → s.commands.head? = some (.execute budget) →
    step s = .next { s with rem := budget, cause := .none, seq := .idle, commands := s.commands.tail }

/-- R27, the decision D8 (log 7): `Execute` on an instance never reset is refused. -/
def Obligations.ExecuteBeforeResetIsRefused : Prop :=
  ∀ (s : State) (budget : Int), s.initialised = false → s.commands.head? = some (.execute budget) →
    step s = .refused .neverReset

/-- R33: the loader's `MemWrite` stores one byte and has no other effect. The host has control while the engine is halted (R25);
that the write is also taken before the first `Reset`, whatever `seq` is, is the MODEL's choice (log 7). -/
def Obligations.LoaderWriteStoresOneByte : Prop :=
  ∀ (s : State) (addr : Addr) (v : Byte), MemoryInv s → s.hostHasControl = true →
    s.commands.head? = some (.write addr v) →
    ∃ t, step s = .next t ∧ t.readByte addr = v ∧
      (∀ b : Nat, b ≠ addr.toNat → Memory.read t.mem b = Memory.read s.mem b) ∧
      t = { s with mem := t.mem, commands := s.commands.tail }

/-- R93: in `Halted` the engine has no transition of its own, and without a command of the host the state persists. -/
def Obligations.HaltedEngineDoesNothing : Prop :=
  ∀ s : State, s.seq = .halted →
    (∀ (c : Config) (k : Nat), ticks c k s = s) ∧ (s.commands = [] → step s = .next s)

/-- R25: the host reads the engine only while it is halted (and, by D8 and D15, after a reset; log 7, log 12), and what it
reads is the state. -/
def Obligations.HostObservesHaltedStatesOnly : Prop :=
  ∀ (s : State) (addr : Addr),
    ((s.observe.isSome = true ↔ s.initialised = true ∧ s.seq = .halted) ∧
      (s.observeCell addr = if s.observe.isSome then some (s.readByte addr) else none)) ∧
    ∀ o, s.observe = some o → o.a = s.a ∧ o.x = s.x ∧ o.y = s.y ∧ o.pc = s.pc ∧ o.sp = s.sp ∧ o.flags = s.flags ∧
      o.rem = s.rem ∧ o.cause = s.cause

/-! ### The engine's primitives -/

/-- R65: `Fetch()` reads the cell at `pc`, advances `pc` by one modulo 65,536 (the wrap is R14's reading, D3, log 3), lowers
`rem` by one whatever it is, and changes nothing else. -/
def Obligations.FetchConsumesOneByte : Prop :=
  ∀ s : State, (fetch s).1 = Memory.read s.mem s.pc.toNat ∧ (fetch s).2.pc.toNat = (s.pc.toNat + 1) % 65536 ∧
    (fetch s).2 = { s with pc := (fetch s).2.pc, rem := s.rem - 1 }

/-- R52 and R67: the immediate operand is the next byte itself, consumed by one `Fetch()`. -/
def Obligations.ImmediateOperandIsTheNextByte : Prop :=
  ∀ s : State, (resolve .immediate s).1 = s.readByte s.pc ∧
    (resolve .immediate s).2 = { s with pc := s.pc + 1, rem := s.rem - 1 } ∧
    ∀ imm : Byte, operandValue (.ldaImm imm) s = imm

/-- R53 and R68: the zero-page operand is the cell addressed by the next byte, zero-extended, inside the first page; one
`Fetch()` and one cycle for the dereference, and `pc` moves by the one `Fetch()`. -/
def Obligations.ZeroPageOperandIsInTheFirstPage : Prop :=
  ∀ s : State, (resolve .zeroPage s).1 = Memory.read s.mem (s.readByte s.pc).toNat ∧
    (resolve .zeroPage s).2 = { s with pc := s.pc + 1, rem := s.rem - 2 } ∧
    ∀ zp : Byte, (zeroPageAddr zp).toNat = zp.toNat ∧ (zeroPageAddr zp).toNat ≤ 0x00FF ∧
      operandValue (.ldaZp zp) s = Memory.read s.mem zp.toNat

/-- R69: zero is `r == 0x00`, negative is bit 7, never both, no other flag and nothing else is written; and so for any load,
regardless of its addressing mode. -/
def Obligations.ZeroAndNegativeFlagsFollowTheResult : Prop :=
  (∀ (r : Byte) (s : State),
    (setZN r s).flags.z = decide (r = 0x00) ∧ (setZN r s).flags.n = decide (0x80 ≤ r.toNat) ∧
    ¬((setZN r s).flags.z = true ∧ (setZN r s).flags.n = true) ∧
    setZN r s = { s with flags := { s.flags with z := (setZN r s).flags.z, n := (setZN r s).flags.n } }) ∧
  ∀ (i : Instr) (s : State), ∃ t, exec i s = .next t ∧
    t.flags.z = decide (operandValue i s = 0x00) ∧ t.flags.n = decide (0x80 ≤ (operandValue i s).toNat)

/-- R108: raising a halt emits `Diag` for `UnknownOpcode` only, records the cause, enters `Halted`, gives the host control, and
changes nothing else. -/
def Obligations.HaltEntryChangesThreeThings : Prop :=
  ∀ (s : State) (b : Byte),
    raiseHalt (.unknownOpcode b) s =
      { s with diag := s.diag ++ [b], cause := .unknownOpcode, seq := .halted } ∧
    raiseHalt .outOfBudget s = { s with cause := .outOfBudget, seq := .halted } ∧
    raiseHalt .addressOutOfRange s = { s with cause := .addressOutOfRange, seq := .halted } ∧
    ∀ r : HaltReason, (raiseHalt r s).hostHasControl = true

/-- R34: the memory component's accesses are defined in range only, and every address the engine forms is in range; the
fault's name and its being unreachable are D13 (log 10). -/
def Obligations.OnlyOutOfRangeAccessFaults : Prop :=
  (∀ (m : Memory) (a : Nat) (v : Byte),
    (a < 65536 →
      Memory.readChecked m a = .ok (Memory.read m a) ∧ Memory.writeChecked m a v = .ok (Memory.write m a v)) ∧
    (65536 ≤ a →
      Memory.readChecked m a = .error .addressOutOfRange ∧ Memory.writeChecked m a v = .error .addressOutOfRange)) ∧
  ∀ (s : State) (zp : Byte),
    Memory.readChecked s.mem s.pc.toNat = .ok (fetch s).1 ∧
    Memory.readChecked s.mem (zeroPageAddr zp).toNat = .ok (operandValue (.ldaZp zp) s)

/-! ### The instructions -/

/-- R80: the whole of `LDA #imm`, its completion and its frame in one equation; and as the step runs it from memory, for every
value of the parameters. `+ 2` on `pc` is modulo 65,536, as the rule says (the reading of R14, D3, log 3). -/
def Obligations.LdaImmediateLoadsItsOperandByte : Prop :=
  (∀ (imm : Byte) (s : State), exec (.ldaImm imm) s =
    .next { s with a := imm, pc := s.pc + 2, rem := s.rem - 2,
                   flags := { s.flags with z := decide (imm = 0x00), n := imm.getLsbD 7 } }) ∧
  ∀ (c : Config) (s : State), c.wf = true → Starts c s → s.readByte s.pc = c.opcLdaImm →
    ∃ t, stepWith c s = .next t ∧ t.a = s.readByte (s.pc + 1) ∧ t.pc = s.pc + 2 ∧ t.rem = s.rem - 2 ∧
      t.flags = { s.flags with z := decide (t.a = 0x00), n := t.a.getLsbD 7 } ∧
      t.x = s.x ∧ t.y = s.y ∧ t.sp = s.sp ∧ t.mem = s.mem

/-- R81: the whole of `LDA zp`, its completion and its frame in one equation; and as the step runs it from memory, for every
value of the parameters. -/
def Obligations.LdaZeroPageLoadsTheAddressedCell : Prop :=
  (∀ (zp : Byte) (s : State), exec (.ldaZp zp) s =
    .next { s with a := Memory.read s.mem zp.toNat, pc := s.pc + 2, rem := s.rem - 3,
                   flags := { s.flags with z := decide (Memory.read s.mem zp.toNat = 0x00),
                                           n := (Memory.read s.mem zp.toNat).getLsbD 7 } }) ∧
  ∀ (c : Config) (s : State), c.wf = true → Starts c s → s.readByte s.pc = c.opcLdaZp →
    ∃ t, stepWith c s = .next t ∧ t.a = Memory.read s.mem (s.readByte (s.pc + 1)).toNat ∧ t.pc = s.pc + 2 ∧
      t.rem = s.rem - 3 ∧ t.flags = { s.flags with z := decide (t.a = 0x00), n := t.a.getLsbD 7 } ∧
      t.x = s.x ∧ t.y = s.y ∧ t.sp = s.sp ∧ t.mem = s.mem

/-- R82: the two loads differ in resolving the operand only: where the immediate is the byte the zero-page cell holds, they
leave the same state but for the one cycle of the dereference (R68, R71). -/
def Obligations.LoadsDifferInResolvingOnly : Prop :=
  ∀ (imm zp : Byte) (s : State), s.readByte (zeroPageAddr zp) = imm →
    ∃ t, exec (.ldaImm imm) s = .next t ∧ exec (.ldaZp zp) s = .next { t with rem := t.rem - 1 }

/-- The frame of both loads (R80, R81, R11, R15, R17, R33): `x[X]`, `x[Y]`, `sp`, five flags, the sequencer's registers, the stream,
the host's commands and every byte of memory are unchanged; both forms store nothing. -/
def Obligations.LoadsLeaveTheRestUnchanged : Prop :=
  ∀ (i : Instr) (s : State), ∃ t, exec i s = .next t ∧ t.x = s.x ∧ t.y = s.y ∧ t.sp = s.sp ∧
    t.flags.c = s.flags.c ∧ t.flags.i = s.flags.i ∧ t.flags.d = s.flags.d ∧ t.flags.b = s.flags.b ∧
    t.flags.v = s.flags.v ∧ t.seq = s.seq ∧ t.cause = s.cause ∧ t.ir = s.ir ∧ t.diag = s.diag ∧
    t.commands = s.commands ∧ t.initialised = s.initialised ∧
    ∀ addr : Nat, Memory.read t.mem addr = Memory.read s.mem addr

/-- R71: the static cost table, 2 bytes each, 2 and 3 cycles, and that executing a load costs just that whatever its operand,
the registers, the flags and the address. -/
def Obligations.LoadsCostWhatTheTableSays : Prop :=
  (∀ (c : Config) (row : Row), row ∈ optab c →
    row.bytes = 2 ∧ (row.mode = .immediate → row.cycles = 2) ∧ (row.mode = .zeroPage → row.cycles = 3)) ∧
  ∀ (c : Config) (i : Instr) (s : State), ∃ row ∈ optab c, row.opcode = i.opcode c ∧ row.mode = i.mode ∧
    ∃ t, exec i s = .next t ∧ t.pc.toNat = (s.pc.toNat + row.bytes) % 65536 ∧ t.rem = s.rem - row.cycles

/-- R11, an inference the spec marks as its own: no instruction reads a general register, a flag or the stack pointer. Two
states that agree on memory, `pc` and `rem` agree after a load on all that the load writes. -/
def Obligations.LoadsIgnoreOldRegistersAndFlags : Prop :=
  ∀ (i : Instr) (s s' : State), s'.mem = s.mem → s'.pc = s.pc → s'.rem = s.rem →
    ∃ t t', exec i s = .next t ∧ exec i s' = .next t' ∧ t'.a = t.a ∧ t'.flags.z = t.flags.z ∧
      t'.flags.n = t.flags.n ∧ t'.pc = t.pc ∧ t'.rem = t.rem

/-! ### Encoding -/

/-- R50 and R54, over every pair of distinct opcode bytes (R6): decoding the encoding of an instruction gives it back, with its
operand byte at every value. -/
def Obligations.DecodeOfEncodeIsTheInstruction : Prop :=
  ∀ (c : Config) (i : Instr), c.wf = true → i.wf = true →
    decode c (encode c i).1 (encode c i).2 = .known i

/-- The other direction: two bytes that decode are the encoding of what they decode to; no instruction has two encodings. -/
def Obligations.EncodeOfDecodeIsTheBytes : Prop :=
  ∀ (c : Config) (op operand : Byte) (i : Instr), decode c op operand = .known i → encode c i = (op, operand)

/-- R55: every opcode byte gets exactly one verdict: the table's one row with that key, or unknown where no row has it. -/
def Obligations.DecodeIsTotalAndUnambiguous : Prop :=
  ∀ c : Config, c.wf = true →
    (optab c).Pairwise (fun r r' => r.opcode ≠ r'.opcode) ∧
    ∀ op operand : Byte,
      (∀ row ∈ optab c, row.opcode = op →
        decodeOpcode c op = some row ∧ decode c op operand = .known (row.instr operand)) ∧
      ((∀ row ∈ optab c, row.opcode ≠ op) →
        decodeOpcode c op = none ∧ decode c op operand = .unknownOpcode op)

/-- R56: the unknown opcodes are all bytes but the two keys, 254 of 256. The byte 0x00 among them is an inference the spec
marks as its own, and with the count it rests on the bytes 0xA9 and 0xA5 of D1 (log 1). -/
def Obligations.AllButTwoOpcodesAreUnknown : Prop :=
  (∀ (c : Config) (op operand : Byte),
    decode c op operand = .unknownOpcode op ↔ op ≠ c.opcLdaImm ∧ op ≠ c.opcLdaZp) ∧
  ((List.range 256).filter (fun n => decodeOpcode Config.chosen (BitVec.ofNat 8 n) == none)).length = 254 ∧
  decodeOpcode Config.chosen 0x00 = none

/-- R57 and R58: the opcode byte alone decides; every operand byte is legal and is the instruction's operand, whole. -/
def Obligations.OperandByteNeverDecides : Prop :=
  ∀ (c : Config) (op operand operand' : Byte) (i : Instr), decode c op operand = .known i →
    ∃ i', decode c op operand' = .known i' ∧ i'.mode = i.mode ∧ i'.operand = operand' ∧ i'.wf = true

/-- Words written out from opcode_table.json's encodings (the two opcode bytes are D1's, log 1) and the spec's vectors V17 to
V19: a sanity check. -/
def Obligations.WrittenOutWordsDecode : Prop :=
  decode Config.chosen 0b10101001 0b10000100 = .known (.ldaImm 0x84) ∧
  decode Config.chosen 0b10100101 0b01000010 = .known (.ldaZp 0x42) ∧
  decode Config.chosen 0b10100100 0b01000010 = .unknownOpcode 0xA4 ∧
  decodeTableWord 16 0b1000010010101001 = some (.ldaImm 0x84) ∧
  decodeTableWord 8 0b10100101 = some (.ldaZp 0x00)

/-! ### The sequencer and the budget -/

/-- At an instruction boundary with budget left, when the bytes at `pc` decode to a well-formed instruction, a step is `exec`
of it, in the state whose opcode latch holds the opcode byte (R89, R97). -/
def Obligations.StepRunsTheDecodedInstruction : Prop :=
  ∀ (s : State) (i : Instr), Starts Config.chosen s → i.wf = true →
    decode Config.chosen (s.readByte s.pc) (s.readByte (s.pc + 1)) = .known i →
    step s = exec i { s with ir := s.readByte s.pc }

/-- The same for an instruction placed where the machine fetches (R131; log 14): the very next step is `exec` of what the
decoder reads from its bits. -/
def Obligations.PlacedWordRunsNext : Prop :=
  ∀ (s : State) (nbits w : Nat) (i : Instr), MemoryInv s → decodeTableWord nbits w = some i →
    step (s.withFetchWord nbits w) =
      exec i { s.withFetchWord nbits w with ir := (tableBytes nbits w).1 }

/-- R88 to R92: the transitions of `Idle` under `overrun`, `Fetching`, `Decoding` and `Executing`, each with everything it
changes. That `seq` and `ir` are registers is decision D5 (log 5); the policy is a hypothesis here, not the choice D2. -/
def Obligations.SequencerTransitions : Prop :=
  ∀ (c : Config) (s : State),
    (s.seq = .idle → c.policy = .overrun →
      tick c s = if 0 < s.rem then { s with seq := .fetching } else { s with seq := .halted, cause := .outOfBudget }) ∧
    (s.seq = .fetching →
      tick c s = { s with ir := s.readByte s.pc, pc := s.pc + 1, rem := s.rem - 1, seq := .decoding }) ∧
    (s.seq = .decoding → ∀ row, decodeOpcode c s.ir = some row → tick c s = { s with seq := .executing }) ∧
    (s.seq = .decoding → decodeOpcode c s.ir = none →
      tick c s = { s with seq := .halted, cause := .unknownOpcode, diag := s.diag ++ [s.ir] }) ∧
    (s.seq = .executing → ∀ row, decodeOpcode c s.ir = some row →
      tick c s = { opLda (resolve row.mode s).1 (resolve row.mode s).2 with seq := .idle })

/-- R102, an inference the spec marks as its own: the machine whose step is one instruction and the five-state machine of R87
are equal, for every value of the parameters. From `Idle` the step runs `exec`; that from inside an instruction it is the rest
of the transitions is the MODEL's choice (DESIGN CHOICE, log 15). -/
def Obligations.StepEqualsTheFiveStateMachine : Prop :=
  ∀ (c : Config) (s : State), EngineTurn s → stepWith c s = .next (ticks c s.seq.ticksLeft s)

/-- R112 and R88: the budget test comes before any fetch: with `rem <= 0` the run halts `OutOfBudget` with nothing fetched,
whatever byte is at `pc` and under either policy. The `overrun` test itself is decision D2 (log 2), `defer` is D18. -/
def Obligations.ExhaustedBudgetHaltsBeforeTheFetch : Prop :=
  ∀ (c : Config) (s : State), AtBoundary s → s.rem ≤ 0 →
    stepWith c s = .next { s with seq := .halted, cause := .outOfBudget }

/-- R109 (its `pc` and `rem` are decision D14, log 11): the state after an `UnknownOpcode` halt, whole. -/
def Obligations.UnknownOpcodeHaltsPrecisely : Prop :=
  ∀ (c : Config) (s : State), Starts c s → decodeOpcode c (s.readByte s.pc) = none →
    stepWith c s =
      .next { s with pc := s.pc + 1, rem := s.rem - 1, ir := s.readByte s.pc, cause := .unknownOpcode, seq := .halted,
                     diag := s.diag ++ [s.readByte s.pc] }

/-- R94: inside an instruction the budget is not looked at: shifting `rem` shifts the outcome's `rem` and changes nothing
else. -/
def Obligations.BudgetIsNotReadInsideAnInstruction : Prop :=
  ∀ (c : Config) (s : State) (k : Int), s.seq ≠ .idle →
    tick c { s with rem := s.rem + k } = { tick c s with rem := (tick c s).rem + k }

/-- R95, decision D2 (log 2): under `overrun` an instruction started with budget left may overdraw it by at most 2. -/
def Obligations.OverrunOverdrawsByAtMostTwo : Prop :=
  ∀ (c : Config) (s : State), c.policy = .overrun → AtBoundary s → 0 < s.rem →
    ∃ t, stepWith c s = .next t ∧ -2 ≤ t.rem ∧ t.rem < s.rem

/-- R96, decision D18 (log 2): under `defer` an instruction the budget cannot pay for is not started and nothing else changes,
and a budget that is not negative never goes below zero. -/
def Obligations.DeferNeverOverdraws : Prop :=
  ∀ (c : Config) (s : State), c.policy = .defer → AtBoundary s → 0 ≤ s.rem →
    (∀ row, decodeOpcode c (s.readByte s.pc) = some row → s.rem < row.cycles →
      stepWith c s = .next { s with seq := .halted, cause := .outOfBudget }) ∧
    ∃ t, stepWith c s = .next t ∧ 0 ≤ t.rem

/-- R96, decision D18 (log 2): the two policies differ on an instruction the remaining budget cannot pay for, and nowhere
else. -/
def Obligations.PoliciesAgreeOnPaidInstructions : Prop :=
  ∀ (c : Config) (s : State), AtBoundary s →
    (∀ row, decodeOpcode c (s.readByte s.pc) = some row → 0 < s.rem → (row.cycles : Int) ≤ s.rem) →
    stepWith { c with policy := .overrun } s = stepWith { c with policy := .defer } s

/-- R98 (an inference the spec marks as its own) and R95 (D2, log 2): from every instruction boundary the run halts, after at
most `ceil(rem / 2)` instructions and one halting step, out of budget or on an unknown opcode, and from a positive budget an
exhausted one ends in -2..0. -/
def Obligations.EveryRunHalts : Prop :=
  ∀ s : State, AtBoundary s →
    ∃ k t, k ≤ (s.rem.toNat + 1) / 2 + 1 ∧ Host.Core.run core k s = .next t ∧ t.seq = .halted ∧
      (t.cause = .outOfBudget ∨ t.cause = .unknownOpcode) ∧
      (t.cause = .outOfBudget → 0 < s.rem → -2 ≤ t.rem ∧ t.rem ≤ 0)

/-! ### Invariants and whole-machine rules -/

/-- R28, an inference the spec marks as its own: every step keeps the invariant of the registers and flags. -/
def Obligations.StepKeepsRegistersInvariant : Prop :=
  ∀ s t : State, RegistersInv s → step s = .next t → RegistersInv t

/-- Every step keeps the memory in its canonical form (the model's representation of R30). -/
def Obligations.StepKeepsMemoryCanonical : Prop :=
  ∀ s t : State, MemoryInv s → step s = .next t → MemoryInv t

/-- R21, R22 and R107 (D5, D13; log 5, log 10): every step keeps that a run that goes on has no cause, that no cause is
`AddressOutOfRange`, and that after an `UnknownOpcode` halt the latch and the last event hold the offending byte. -/
def Obligations.StepKeepsHaltRecord : Prop :=
  ∀ s t : State, CauseInv s → UnknownOpcodeRecord Config.chosen s → step s = .next t →
    CauseInv t ∧ UnknownOpcodeRecord Config.chosen t

/-- The state after reset meets every invariant, and the zero flag is NOT yet tied to the accumulator (R28, F6). -/
def Obligations.ResetMeetsTheInvariants : Prop :=
  RegistersInv State.reset ∧ MemoryInv State.reset ∧ CauseInv State.reset ∧
    UnknownOpcodeRecord Config.chosen State.reset ∧ ¬ ZeroFlagTracksA State.reset

/-- R28, an inference the spec marks as its own: from the first completed load on, until a `Reset` is taken, the zero flag says
whether the accumulator is zero. -/
def Obligations.ZeroFlagTracksAccumulatorAfterALoad : Prop :=
  (∀ (i : Instr) (s : State), ∃ t, exec i s = .next t ∧ ZeroFlagTracksA t) ∧
  ∀ s t : State, ZeroFlagTracksA s → (s.hostHasControl = true → NoResetNext s) → step s = .next t → ZeroFlagTracksA t

/-- R27 and R107 (D8, D13; log 7, log 10): an instance that has been reset never faults and never refuses, and stays so. -/
def Obligations.ResetInstanceNeverStops : Prop :=
  ∀ s : State, s.initialised = true → ∃ t, step s = .next t ∧ t.initialised = true

/-- R11, R15, R17, R25 and R33, inferences the spec marks as its own: whatever the engine does in its turn, it leaves `x[X]`,
`x[Y]`, `sp`, five flags, memory and the host's commands unchanged. -/
def Obligations.EngineLeavesTheRestUnchanged : Prop :=
  ∀ (c : Config) (s : State), EngineTurn s →
    ∃ t, stepWith c s = .next t ∧ t.x = s.x ∧ t.y = s.y ∧ t.sp = s.sp ∧ t.flags.c = s.flags.c ∧
      t.flags.i = s.flags.i ∧ t.flags.d = s.flags.d ∧ t.flags.b = s.flags.b ∧ t.flags.v = s.flags.v ∧
      t.mem = s.mem ∧ t.commands = s.commands ∧ t.initialised = true

/-- R13 and R116, inferences the spec marks as its own: from an instruction boundary `pc` stays (budget halt), advances by one
(unknown opcode) or by two (a completed load), and the rest of the outcome goes with it; a host command other than `Reset`
leaves `pc` alone. -/
def Obligations.PcMovesByFetchesOnly : Prop :=
  (∀ (c : Config) (s : State), AtBoundary s →
    ∃ t, stepWith c s = .next t ∧
      ((t.pc = s.pc ∧ t.rem = s.rem ∧ t.seq = .halted ∧ t.cause = .outOfBudget ∧ t.a = s.a ∧ t.flags = s.flags) ∨
       (t.pc = s.pc + 1 ∧ t.rem = s.rem - 1 ∧ t.seq = .halted ∧ t.cause = .unknownOpcode ∧ t.a = s.a ∧
         t.flags = s.flags) ∨
       (t.pc = s.pc + 2 ∧ (t.rem = s.rem - 2 ∨ t.rem = s.rem - 3) ∧ t.seq = .idle ∧ t.cause = s.cause))) ∧
  ∀ s t : State, s.hostHasControl = true → NoResetNext s → step s = .next t → t.pc = s.pc

/-- R110, decision D12 (log 9): exactly one event for an `UnknownOpcode` halt, the byte in `ir`, and none otherwise. -/
def Obligations.OneDiagnosticPerUnknownOpcode : Prop :=
  ∀ s t : State, step s = .next t →
    (t.seq = .halted ∧ t.cause = .unknownOpcode ∧ t.diag = s.diag ++ [t.ir]) ∨
    (t.diag = s.diag ∧ (t.cause = .unknownOpcode → s.cause = .unknownOpcode))

/-- R23: the diagnostic channel is an output: appended to only by an `UnknownOpcode` halt, and no step reads it back. That the
halt appends exactly one event, the byte in `ir`, and that `Reset` keeps the stream, is decision D12 (log 9). -/
def Obligations.DiagnosticStreamIsNeverReadBack : Prop :=
  ∀ (s t : State) (d : List Byte), step s = .next t →
    ∃ e, t.diag = s.diag ++ e ∧ step { s with diag := d } = .next { t with diag := d ++ e } ∧
      (e = [] ∨ (t.cause = .unknownOpcode ∧ t.seq = .halted ∧ e = [t.ir]))

/-- R22 (D5, log 5): no host-visible property depends on what the opcode latch held before the instruction. -/
def Obligations.OpcodeLatchIsNotObservable : Prop :=
  ∀ (s : State) (b : Byte), AtBoundary s →
    ∃ t t', step s = .next t ∧ step { s with ir := b } = .next t' ∧ { t' with ir := t.ir } = t ∧
      t'.observe = t.observe
end

