-- ==== Sys2Proof/Laws/Decode.lean ====
section
/-! SUPPORT. What the table lookup answers, said once (30_encoding.md rules R54 to R56). -/

namespace Sys2Proof

/-- The lookup as a chain over the two keys. -/
theorem decodeOpcode_eq (c : Config) (op : Byte) :
    decodeOpcode c op =
      if c.opcLdaImm = op then
        some { opcode := c.opcLdaImm, mode := .immediate, operation := .loadAccumulator, bytes := 2, cycles := 2 }
      else if c.opcLdaZp = op then
        some { opcode := c.opcLdaZp, mode := .zeroPage, operation := .loadAccumulator, bytes := 2, cycles := 3 }
      else none := by
  by_cases h : c.opcLdaImm = op
  · simp [decodeOpcode, optab, h]
  · by_cases h' : c.opcLdaZp = op <;> simp [decodeOpcode, optab, h, h']

theorem Config.wf_iff (c : Config) : c.wf = true ↔ c.opcLdaImm ≠ c.opcLdaZp := by
  simp [Config.wf]

/-- A row that the lookup answers is in the table and carries the byte as its key. -/
theorem decodeOpcode_some {c : Config} {op : Byte} {row : Row} (h : decodeOpcode c op = some row) :
    row ∈ optab c ∧ row.opcode = op :=
  ⟨List.mem_of_find?_eq_some h, by simpa using List.find?_some h⟩

/-- No key of the table: neither opcode byte. -/
theorem decodeOpcode_none {c : Config} {op : Byte} (h : decodeOpcode c op = none) :
    c.opcLdaImm ≠ op ∧ c.opcLdaZp ≠ op := by
  rw [decodeOpcode_eq] at h
  split at h
  · cases h
  · split at h
    · cases h
    · exact ⟨‹_›, ‹_›⟩

/-- The instruction decoded is the row's, with the operand byte. -/
theorem decode_known {c : Config} {op operand : Byte} {i : Instr} (h : decode c op operand = .known i) :
    ∃ row, decodeOpcode c op = some row ∧ i = row.instr operand := by
  simp only [decode] at h
  split at h
  · rename_i row heq
    exact ⟨row, heq, (Decoded.known.inj h).symm⟩
  · cases h

/-- A rejected byte is the opcode byte, and it is no key of the table. -/
theorem decode_unknown {c : Config} {op operand b : Byte} (h : decode c op operand = .unknownOpcode b) :
    b = op ∧ decodeOpcode c op = none := by
  simp only [decode] at h
  split at h
  · cases h
  · exact ⟨(Decoded.unknownOpcode.inj h).symm, ‹_›⟩

end Sys2Proof
end

