-- ==== Sys2Proof/Laws/State.lean ====
section
/-! SUPPORT. One lemma per field per update of State, each true by rfl, so that no later proof unfolds a record update. -/

namespace Sys2Proof.Machine

open Sys2Proof

variable (s : State)

/-! ### State.consume -/

@[simp] theorem State.consume_a : s.consume.a = s.a := rfl
@[simp] theorem State.consume_x : s.consume.x = s.x := rfl
@[simp] theorem State.consume_y : s.consume.y = s.y := rfl
@[simp] theorem State.consume_pc : s.consume.pc = s.pc + 1 := rfl
@[simp] theorem State.consume_sp : s.consume.sp = s.sp := rfl
@[simp] theorem State.consume_flags : s.consume.flags = s.flags := rfl
@[simp] theorem State.consume_mem : s.consume.mem = s.mem := rfl
@[simp] theorem State.consume_seq : s.consume.seq = s.seq := rfl
@[simp] theorem State.consume_rem : s.consume.rem = s.rem - 1 := rfl
@[simp] theorem State.consume_cause : s.consume.cause = s.cause := rfl
@[simp] theorem State.consume_ir : s.consume.ir = s.ir := rfl
@[simp] theorem State.consume_diag : s.consume.diag = s.diag := rfl
@[simp] theorem State.consume_commands : s.consume.commands = s.commands := rfl
@[simp] theorem State.consume_initialised : s.consume.initialised = s.initialised := rfl
@[simp] theorem State.consume_readByte (a : Addr) : s.consume.readByte a = s.readByte a := rfl

/-! ### State.spendCycle -/

@[simp] theorem State.spendCycle_a : s.spendCycle.a = s.a := rfl
@[simp] theorem State.spendCycle_x : s.spendCycle.x = s.x := rfl
@[simp] theorem State.spendCycle_y : s.spendCycle.y = s.y := rfl
@[simp] theorem State.spendCycle_pc : s.spendCycle.pc = s.pc := rfl
@[simp] theorem State.spendCycle_sp : s.spendCycle.sp = s.sp := rfl
@[simp] theorem State.spendCycle_flags : s.spendCycle.flags = s.flags := rfl
@[simp] theorem State.spendCycle_mem : s.spendCycle.mem = s.mem := rfl
@[simp] theorem State.spendCycle_seq : s.spendCycle.seq = s.seq := rfl
@[simp] theorem State.spendCycle_rem : s.spendCycle.rem = s.rem - 1 := rfl
@[simp] theorem State.spendCycle_cause : s.spendCycle.cause = s.cause := rfl
@[simp] theorem State.spendCycle_ir : s.spendCycle.ir = s.ir := rfl
@[simp] theorem State.spendCycle_diag : s.spendCycle.diag = s.diag := rfl
@[simp] theorem State.spendCycle_commands : s.spendCycle.commands = s.commands := rfl
@[simp] theorem State.spendCycle_initialised : s.spendCycle.initialised = s.initialised := rfl
@[simp] theorem State.spendCycle_readByte (a : Addr) : s.spendCycle.readByte a = s.readByte a := rfl

/-! ### State.setA -/

@[simp] theorem State.setA_a (v : Byte) : (s.setA v).a = v := rfl
@[simp] theorem State.setA_x (v : Byte) : (s.setA v).x = s.x := rfl
@[simp] theorem State.setA_y (v : Byte) : (s.setA v).y = s.y := rfl
@[simp] theorem State.setA_pc (v : Byte) : (s.setA v).pc = s.pc := rfl
@[simp] theorem State.setA_sp (v : Byte) : (s.setA v).sp = s.sp := rfl
@[simp] theorem State.setA_flags (v : Byte) : (s.setA v).flags = s.flags := rfl
@[simp] theorem State.setA_mem (v : Byte) : (s.setA v).mem = s.mem := rfl
@[simp] theorem State.setA_seq (v : Byte) : (s.setA v).seq = s.seq := rfl
@[simp] theorem State.setA_rem (v : Byte) : (s.setA v).rem = s.rem := rfl
@[simp] theorem State.setA_cause (v : Byte) : (s.setA v).cause = s.cause := rfl
@[simp] theorem State.setA_ir (v : Byte) : (s.setA v).ir = s.ir := rfl
@[simp] theorem State.setA_diag (v : Byte) : (s.setA v).diag = s.diag := rfl
@[simp] theorem State.setA_commands (v : Byte) : (s.setA v).commands = s.commands := rfl
@[simp] theorem State.setA_initialised (v : Byte) : (s.setA v).initialised = s.initialised := rfl
@[simp] theorem State.setA_readByte (v : Byte) (a : Addr) : (s.setA v).readByte a = s.readByte a := rfl

/-! ### State.latch -/

@[simp] theorem State.latch_a (op : Byte) : (s.latch op).a = s.a := rfl
@[simp] theorem State.latch_x (op : Byte) : (s.latch op).x = s.x := rfl
@[simp] theorem State.latch_y (op : Byte) : (s.latch op).y = s.y := rfl
@[simp] theorem State.latch_pc (op : Byte) : (s.latch op).pc = s.pc := rfl
@[simp] theorem State.latch_sp (op : Byte) : (s.latch op).sp = s.sp := rfl
@[simp] theorem State.latch_flags (op : Byte) : (s.latch op).flags = s.flags := rfl
@[simp] theorem State.latch_mem (op : Byte) : (s.latch op).mem = s.mem := rfl
@[simp] theorem State.latch_seq (op : Byte) : (s.latch op).seq = s.seq := rfl
@[simp] theorem State.latch_rem (op : Byte) : (s.latch op).rem = s.rem := rfl
@[simp] theorem State.latch_cause (op : Byte) : (s.latch op).cause = s.cause := rfl
@[simp] theorem State.latch_ir (op : Byte) : (s.latch op).ir = op := rfl
@[simp] theorem State.latch_diag (op : Byte) : (s.latch op).diag = s.diag := rfl
@[simp] theorem State.latch_commands (op : Byte) : (s.latch op).commands = s.commands := rfl
@[simp] theorem State.latch_initialised (op : Byte) : (s.latch op).initialised = s.initialised := rfl
@[simp] theorem State.latch_readByte (op : Byte) (a : Addr) : (s.latch op).readByte a = s.readByte a := rfl

/-! ### State.setSeq -/

@[simp] theorem State.setSeq_a (q : Seq) : (s.setSeq q).a = s.a := rfl
@[simp] theorem State.setSeq_x (q : Seq) : (s.setSeq q).x = s.x := rfl
@[simp] theorem State.setSeq_y (q : Seq) : (s.setSeq q).y = s.y := rfl
@[simp] theorem State.setSeq_pc (q : Seq) : (s.setSeq q).pc = s.pc := rfl
@[simp] theorem State.setSeq_sp (q : Seq) : (s.setSeq q).sp = s.sp := rfl
@[simp] theorem State.setSeq_flags (q : Seq) : (s.setSeq q).flags = s.flags := rfl
@[simp] theorem State.setSeq_mem (q : Seq) : (s.setSeq q).mem = s.mem := rfl
@[simp] theorem State.setSeq_seq (q : Seq) : (s.setSeq q).seq = q := rfl
@[simp] theorem State.setSeq_rem (q : Seq) : (s.setSeq q).rem = s.rem := rfl
@[simp] theorem State.setSeq_cause (q : Seq) : (s.setSeq q).cause = s.cause := rfl
@[simp] theorem State.setSeq_ir (q : Seq) : (s.setSeq q).ir = s.ir := rfl
@[simp] theorem State.setSeq_diag (q : Seq) : (s.setSeq q).diag = s.diag := rfl
@[simp] theorem State.setSeq_commands (q : Seq) : (s.setSeq q).commands = s.commands := rfl
@[simp] theorem State.setSeq_initialised (q : Seq) : (s.setSeq q).initialised = s.initialised := rfl
@[simp] theorem State.setSeq_readByte (q : Seq) (a : Addr) : (s.setSeq q).readByte a = s.readByte a := rfl

/-! ### State.dequeue -/

@[simp] theorem State.dequeue_a : s.dequeue.a = s.a := rfl
@[simp] theorem State.dequeue_x : s.dequeue.x = s.x := rfl
@[simp] theorem State.dequeue_y : s.dequeue.y = s.y := rfl
@[simp] theorem State.dequeue_pc : s.dequeue.pc = s.pc := rfl
@[simp] theorem State.dequeue_sp : s.dequeue.sp = s.sp := rfl
@[simp] theorem State.dequeue_flags : s.dequeue.flags = s.flags := rfl
@[simp] theorem State.dequeue_mem : s.dequeue.mem = s.mem := rfl
@[simp] theorem State.dequeue_seq : s.dequeue.seq = s.seq := rfl
@[simp] theorem State.dequeue_rem : s.dequeue.rem = s.rem := rfl
@[simp] theorem State.dequeue_cause : s.dequeue.cause = s.cause := rfl
@[simp] theorem State.dequeue_ir : s.dequeue.ir = s.ir := rfl
@[simp] theorem State.dequeue_diag : s.dequeue.diag = s.diag := rfl
@[simp] theorem State.dequeue_commands : s.dequeue.commands = s.commands.tail := rfl
@[simp] theorem State.dequeue_initialised : s.dequeue.initialised = s.initialised := rfl
@[simp] theorem State.dequeue_readByte (a : Addr) : s.dequeue.readByte a = s.readByte a := rfl

/-! ### State.writeByte -/

@[simp] theorem State.writeByte_a (addr : Addr) (v : Byte) : (s.writeByte addr v).a = s.a := rfl
@[simp] theorem State.writeByte_x (addr : Addr) (v : Byte) : (s.writeByte addr v).x = s.x := rfl
@[simp] theorem State.writeByte_y (addr : Addr) (v : Byte) : (s.writeByte addr v).y = s.y := rfl
@[simp] theorem State.writeByte_pc (addr : Addr) (v : Byte) : (s.writeByte addr v).pc = s.pc := rfl
@[simp] theorem State.writeByte_sp (addr : Addr) (v : Byte) : (s.writeByte addr v).sp = s.sp := rfl
@[simp] theorem State.writeByte_flags (addr : Addr) (v : Byte) : (s.writeByte addr v).flags = s.flags := rfl
@[simp] theorem State.writeByte_mem (addr : Addr) (v : Byte) :
    (s.writeByte addr v).mem = Memory.write s.mem addr.toNat v :=
  rfl
@[simp] theorem State.writeByte_seq (addr : Addr) (v : Byte) : (s.writeByte addr v).seq = s.seq := rfl
@[simp] theorem State.writeByte_rem (addr : Addr) (v : Byte) : (s.writeByte addr v).rem = s.rem := rfl
@[simp] theorem State.writeByte_cause (addr : Addr) (v : Byte) : (s.writeByte addr v).cause = s.cause := rfl
@[simp] theorem State.writeByte_ir (addr : Addr) (v : Byte) : (s.writeByte addr v).ir = s.ir := rfl
@[simp] theorem State.writeByte_diag (addr : Addr) (v : Byte) : (s.writeByte addr v).diag = s.diag := rfl
@[simp] theorem State.writeByte_commands (addr : Addr) (v : Byte) : (s.writeByte addr v).commands = s.commands := rfl
@[simp] theorem State.writeByte_initialised (addr : Addr) (v : Byte) :
    (s.writeByte addr v).initialised = s.initialised :=
  rfl

/-! ### raiseHalt -/

@[simp] theorem raiseHalt_a (r : HaltReason) : (raiseHalt r s).a = s.a := rfl
@[simp] theorem raiseHalt_x (r : HaltReason) : (raiseHalt r s).x = s.x := rfl
@[simp] theorem raiseHalt_y (r : HaltReason) : (raiseHalt r s).y = s.y := rfl
@[simp] theorem raiseHalt_pc (r : HaltReason) : (raiseHalt r s).pc = s.pc := rfl
@[simp] theorem raiseHalt_sp (r : HaltReason) : (raiseHalt r s).sp = s.sp := rfl
@[simp] theorem raiseHalt_flags (r : HaltReason) : (raiseHalt r s).flags = s.flags := rfl
@[simp] theorem raiseHalt_mem (r : HaltReason) : (raiseHalt r s).mem = s.mem := rfl
@[simp] theorem raiseHalt_seq (r : HaltReason) : (raiseHalt r s).seq = .halted := rfl
@[simp] theorem raiseHalt_rem (r : HaltReason) : (raiseHalt r s).rem = s.rem := rfl
@[simp] theorem raiseHalt_cause (r : HaltReason) : (raiseHalt r s).cause = r.cause := rfl
@[simp] theorem raiseHalt_ir (r : HaltReason) : (raiseHalt r s).ir = s.ir := rfl
@[simp] theorem raiseHalt_diag (r : HaltReason) : (raiseHalt r s).diag = s.diag ++ r.events := rfl
@[simp] theorem raiseHalt_commands (r : HaltReason) : (raiseHalt r s).commands = s.commands := rfl
@[simp] theorem raiseHalt_initialised (r : HaltReason) : (raiseHalt r s).initialised = s.initialised := rfl
@[simp] theorem raiseHalt_readByte (r : HaltReason) (a : Addr) : (raiseHalt r s).readByte a = s.readByte a := rfl

/-! ### startRun -/

@[simp] theorem startRun_a (b : Int) : (startRun b s).a = s.a := rfl
@[simp] theorem startRun_x (b : Int) : (startRun b s).x = s.x := rfl
@[simp] theorem startRun_y (b : Int) : (startRun b s).y = s.y := rfl
@[simp] theorem startRun_pc (b : Int) : (startRun b s).pc = s.pc := rfl
@[simp] theorem startRun_sp (b : Int) : (startRun b s).sp = s.sp := rfl
@[simp] theorem startRun_flags (b : Int) : (startRun b s).flags = s.flags := rfl
@[simp] theorem startRun_mem (b : Int) : (startRun b s).mem = s.mem := rfl
@[simp] theorem startRun_seq (b : Int) : (startRun b s).seq = .idle := rfl
@[simp] theorem startRun_rem (b : Int) : (startRun b s).rem = b := rfl
@[simp] theorem startRun_cause (b : Int) : (startRun b s).cause = .none := rfl
@[simp] theorem startRun_ir (b : Int) : (startRun b s).ir = s.ir := rfl
@[simp] theorem startRun_diag (b : Int) : (startRun b s).diag = s.diag := rfl
@[simp] theorem startRun_commands (b : Int) : (startRun b s).commands = s.commands := rfl
@[simp] theorem startRun_initialised (b : Int) : (startRun b s).initialised = s.initialised := rfl
@[simp] theorem startRun_readByte (b : Int) (a : Addr) : (startRun b s).readByte a = s.readByte a := rfl

/-! ### setZN -/

@[simp] theorem setZN_a (r : Byte) : (setZN r s).a = s.a := rfl
@[simp] theorem setZN_x (r : Byte) : (setZN r s).x = s.x := rfl
@[simp] theorem setZN_y (r : Byte) : (setZN r s).y = s.y := rfl
@[simp] theorem setZN_pc (r : Byte) : (setZN r s).pc = s.pc := rfl
@[simp] theorem setZN_sp (r : Byte) : (setZN r s).sp = s.sp := rfl
@[simp] theorem setZN_flags (r : Byte) : (setZN r s).flags = { s.flags with z := r == 0x00, n := r.msb } := rfl
@[simp] theorem setZN_mem (r : Byte) : (setZN r s).mem = s.mem := rfl
@[simp] theorem setZN_seq (r : Byte) : (setZN r s).seq = s.seq := rfl
@[simp] theorem setZN_rem (r : Byte) : (setZN r s).rem = s.rem := rfl
@[simp] theorem setZN_cause (r : Byte) : (setZN r s).cause = s.cause := rfl
@[simp] theorem setZN_ir (r : Byte) : (setZN r s).ir = s.ir := rfl
@[simp] theorem setZN_diag (r : Byte) : (setZN r s).diag = s.diag := rfl
@[simp] theorem setZN_commands (r : Byte) : (setZN r s).commands = s.commands := rfl
@[simp] theorem setZN_initialised (r : Byte) : (setZN r s).initialised = s.initialised := rfl
@[simp] theorem setZN_readByte (r : Byte) (a : Addr) : (setZN r s).readByte a = s.readByte a := rfl

/-! ### opLda -/

@[simp] theorem opLda_a (v : Byte) : (opLda v s).a = v := rfl
@[simp] theorem opLda_x (v : Byte) : (opLda v s).x = s.x := rfl
@[simp] theorem opLda_y (v : Byte) : (opLda v s).y = s.y := rfl
@[simp] theorem opLda_pc (v : Byte) : (opLda v s).pc = s.pc := rfl
@[simp] theorem opLda_sp (v : Byte) : (opLda v s).sp = s.sp := rfl
@[simp] theorem opLda_flags (v : Byte) : (opLda v s).flags = { s.flags with z := v == 0x00, n := v.msb } := rfl
@[simp] theorem opLda_mem (v : Byte) : (opLda v s).mem = s.mem := rfl
@[simp] theorem opLda_seq (v : Byte) : (opLda v s).seq = s.seq := rfl
@[simp] theorem opLda_rem (v : Byte) : (opLda v s).rem = s.rem := rfl
@[simp] theorem opLda_cause (v : Byte) : (opLda v s).cause = s.cause := rfl
@[simp] theorem opLda_ir (v : Byte) : (opLda v s).ir = s.ir := rfl
@[simp] theorem opLda_diag (v : Byte) : (opLda v s).diag = s.diag := rfl
@[simp] theorem opLda_commands (v : Byte) : (opLda v s).commands = s.commands := rfl
@[simp] theorem opLda_initialised (v : Byte) : (opLda v s).initialised = s.initialised := rfl
@[simp] theorem opLda_readByte (v : Byte) (a : Addr) : (opLda v s).readByte a = s.readByte a := rfl

/-! ### resetAction -/

@[simp] theorem resetAction_a : (resetAction s).a = 0x00 := rfl
@[simp] theorem resetAction_x : (resetAction s).x = 0x00 := rfl
@[simp] theorem resetAction_y : (resetAction s).y = 0x00 := rfl
@[simp] theorem resetAction_pc : (resetAction s).pc = Config.resetPc := rfl
@[simp] theorem resetAction_sp : (resetAction s).sp = Config.resetSp := rfl
@[simp] theorem resetAction_flags :
    (resetAction s).flags = { c := false, z := false, i := false, d := false, b := false, v := false, n := false } :=
  rfl
@[simp] theorem resetAction_mem : (resetAction s).mem = [] := rfl
@[simp] theorem resetAction_seq : (resetAction s).seq = .halted := rfl
@[simp] theorem resetAction_rem : (resetAction s).rem = 0 := rfl
@[simp] theorem resetAction_cause : (resetAction s).cause = .none := rfl
@[simp] theorem resetAction_ir : (resetAction s).ir = 0x00 := rfl
@[simp] theorem resetAction_diag : (resetAction s).diag = s.diag := rfl
@[simp] theorem resetAction_commands : (resetAction s).commands = s.commands := rfl
@[simp] theorem resetAction_initialised : (resetAction s).initialised = true := rfl

end Sys2Proof.Machine
end

