-- ==== Sys2Proof/Laws/Exec.lean ====
section
/-! SUPPORT. One spec lemma per shared operation: what fetching, resolving an operand and executing an instruction answer. -/

namespace Sys2Proof.Machine

open Sys2Proof

@[simp] theorem fetch_fst (s : State) : (fetch s).1 = s.readByte s.pc := rfl
@[simp] theorem fetch_snd (s : State) : (fetch s).2 = s.consume := rfl
/-- The second `Fetch()` of an instruction reads the byte after the opcode. -/
@[simp] theorem fetch_fetch_fst (s : State) : (fetch (fetch s).2).1 = s.readByte (s.pc + 1) := rfl
@[simp] theorem dereference_fst (b : Byte) (s : State) : (dereference b s).1 = s.readByte (zeroPageAddr b) := rfl
@[simp] theorem dereference_snd (b : Byte) (s : State) : (dereference b s).2 = s.spendCycle := rfl
@[simp] theorem operandImmediate_fst (b : Byte) (s : State) : (operandImmediate b s).1 = b := rfl
@[simp] theorem operandImmediate_snd (b : Byte) (s : State) : (operandImmediate b s).2 = s.consume := rfl
@[simp] theorem operandZeroPage_fst (b : Byte) (s : State) :
    (operandZeroPage b s).1 = s.readByte (zeroPageAddr b) := rfl
@[simp] theorem operandZeroPage_snd (b : Byte) (s : State) : (operandZeroPage b s).2 = s.consume.spendCycle := rfl
@[simp] theorem fetchOpcode_eq (s : State) : fetchOpcode s = s.consume.latch (s.readByte s.pc) := rfl
theorem rejectOpcode_eq (s : State) :
    rejectOpcode s = raiseHalt (.unknownOpcode (s.readByte s.pc)) (s.consume.latch (s.readByte s.pc)) := rfl

@[simp] theorem HaltReason.cause_outOfBudget : HaltReason.outOfBudget.cause = .outOfBudget := rfl
@[simp] theorem HaltReason.cause_unknownOpcode (b : Byte) : (HaltReason.unknownOpcode b).cause = .unknownOpcode := rfl
@[simp] theorem HaltReason.events_outOfBudget : HaltReason.outOfBudget.events = [] := rfl
@[simp] theorem HaltReason.events_unknownOpcode (b : Byte) : (HaltReason.unknownOpcode b).events = [b] := rfl

/-- The state in which an instruction's operation runs: the fetches of its two bytes paid, and the dereference. -/
def paid (i : Instr) (s : State) : State :=
  match i with
  | .ldaImm _ => s.consume.consume
  | .ldaZp _ => s.consume.consume.spendCycle

/-- Whatever the instruction, `exec` answers the shared operation on the effective operand value. -/
theorem exec_eq_opLda (i : Instr) (s : State) : exec i s = .next (opLda (operandValue i s) (paid i s)) := by
  cases i <;> rfl

/-- Resolving a row's operand from memory is resolving it from the decoded operand byte. -/
theorem resolve_decoded (row : Row) (s : State) :
    resolve row.mode s =
      match row.instr (s.readByte s.pc) with
      | .ldaImm imm => operandImmediate imm s
      | .ldaZp zp => operandZeroPage zp s := by
  obtain ⟨_, mode, op, _, _⟩ := row
  cases op
  cases mode <;> rfl

/-- Under `overrun` an instruction starts exactly on a positive budget. -/
theorem mayStart_overrun {c : Config} (h : c.policy = .overrun) (s : State) :
    mayStart c s = true ↔ 0 < s.rem := by
  simp [mayStart, h]

/-- Under either policy an instruction starts on a positive budget only. -/
theorem rem_pos_of_mayStart {c : Config} {s : State} (h : mayStart c s = true) : 0 < s.rem := by
  simp only [mayStart] at h
  split at h
  · simpa using h
  · simp only [Bool.and_eq_true, decide_eq_true_eq] at h
    exact h.1

/-- The budget test looks at `rem`, `pc` and memory only. -/
theorem mayStart_congr {c : Config} {s s' : State} (hr : s'.rem = s.rem) (hp : s'.pc = s.pc) (hm : s'.mem = s.mem) :
    mayStart c s' = mayStart c s := by
  simp only [mayStart, State.readByte, hr, hp, hm]

end Sys2Proof.Machine
end

