-- ==== Sys2Proof/Laws/Memory.lean ====
section
/-! SUPPORT. The laws of the memory component: a read after a write, the cells a write leaves alone, and that every memory
operation keeps the canonical form (20_memory.md rules R31 to R34). -/

namespace Sys2Proof.Machine

open Sys2Proof

/-- Below the lowest listed address every cell reads as cleared. -/
theorem Memory.read_below {lo a : Nat} (h : a < lo) :
    ∀ {m : Memory}, Memory.wfFrom lo m = true → Memory.read m a = Config.clearedByte
  | [], _ => rfl
  | (b, w) :: m, hw => by
    simp only [Memory.wfFrom, Bool.and_eq_true, decide_eq_true_eq] at hw
    have hne : a ≠ b := by omega
    simp only [Memory.read, hne, if_false]
    exact Memory.read_below (by omega) hw.2

/-- The canonical form above an address holds above every lower one. -/
theorem Memory.wfFrom_mono {lo lo' : Nat} (h : lo ≤ lo') :
    ∀ {m : Memory}, Memory.wfFrom lo' m = true → Memory.wfFrom lo m = true
  | [], _ => rfl
  | (b, w) :: m, hw => by
    simp only [Memory.wfFrom, Bool.and_eq_true, decide_eq_true_eq] at hw ⊢
    exact ⟨⟨⟨by omega, hw.1.1.2⟩, hw.1.2⟩, hw.2⟩

/-- A write inside the memory keeps the canonical form above an address. -/
theorem Memory.wfFrom_write {lo a : Nat} (v : Byte) (hlo : lo ≤ a) (ha : a < Config.memCells) :
    ∀ {m : Memory}, Memory.wfFrom lo m = true → Memory.wfFrom lo (Memory.write m a v) = true
  | [], _ => by
    simp only [Memory.write]
    split
    · rfl
    · simp [Memory.wfFrom, *]
  | (b, w) :: m, hw => by
    have hw' := hw
    simp only [Memory.wfFrom, Bool.and_eq_true, decide_eq_true_eq] at hw'
    simp only [Memory.write]
    split
    · split
      · exact hw
      · simp only [Memory.wfFrom, Bool.and_eq_true, decide_eq_true_eq]
        exact ⟨⟨⟨hlo, ha⟩, by simp [*]⟩, ⟨⟨⟨by omega, hw'.1.1.2⟩, hw'.1.2⟩, hw'.2⟩⟩
    · split
      · subst_vars
        split
        · exact Memory.wfFrom_mono (by omega) hw'.2
        · simp only [Memory.wfFrom, Bool.and_eq_true, decide_eq_true_eq]
          exact ⟨⟨⟨hlo, ha⟩, by simp [*]⟩, hw'.2⟩
      · simp only [Memory.wfFrom, Bool.and_eq_true, decide_eq_true_eq]
        exact ⟨hw'.1, Memory.wfFrom_write v (by omega) ha hw'.2⟩

/-- A write inside the memory keeps the canonical form. -/
theorem Memory.wf_write {m : Memory} {a : Nat} (v : Byte) (ha : a < Config.memCells) (h : Memory.wf m = true) :
    Memory.wf (Memory.write m a v) = true :=
  Memory.wfFrom_write v (Nat.zero_le a) ha h

@[simp] theorem Memory.wf_init : Memory.wf Memory.init = true := rfl

theorem State.reset_mem_wf : Memory.wf State.reset.mem = true := rfl

/-- A checked write that succeeds keeps the canonical form. -/
theorem Memory.wf_writeChecked {m m' : Memory} {a : Nat} {v : Byte} (h : Memory.wf m = true)
    (hw : Memory.writeChecked m a v = .ok m') : Memory.wf m' = true := by
  simp only [Memory.writeChecked] at hw
  split at hw
  · cases hw
    exact Memory.wf_write v ‹_› h
  · cases hw

/-- A write leaves every other cell alone, in any memory. -/
theorem Memory.read_write_other {a a' : Nat} (v : Byte) (hne : a' ≠ a) :
    ∀ (m : Memory), Memory.read (Memory.write m a v) a' = Memory.read m a'
  | [] => by
    simp only [Memory.write]
    split <;> simp [Memory.read, hne]
  | (b, w) :: m => by
    simp only [Memory.write]
    split
    · split <;> simp [Memory.read, hne]
    · split
      · subst_vars
        split <;> simp [Memory.read, hne]
      · simp only [Memory.read]
        split
        · rfl
        · exact Memory.read_write_other v hne m

/-- A read after a write to the same cell gives the byte written, above an address from which the memory is canonical. -/
theorem Memory.read_write_same_from {lo a : Nat} (v : Byte) :
    ∀ {m : Memory}, Memory.wfFrom lo m = true → Memory.read (Memory.write m a v) a = v
  | [], _ => by
    simp only [Memory.write]
    split <;> simp [Memory.read, *]
  | (b, w) :: m, hw => by
    simp only [Memory.wfFrom, Bool.and_eq_true, decide_eq_true_eq] at hw
    simp only [Memory.write]
    split
    · have hne : a ≠ b := by omega
      split
      · simp only [Memory.read, hne, if_false]
        rw [Memory.read_below (lo := b + 1) (by omega) hw.2]
        exact (‹v = _›).symm
      · simp [Memory.read]
    · split
      · rename_i heq
        subst heq
        split
        · rw [Memory.read_below (lo := a + 1) (by omega) hw.2]
          exact (‹v = _›).symm
        · simp [Memory.read]
      · simp only [Memory.read, ‹¬a = b›, if_false]
        exact Memory.read_write_same_from v hw.2

/-- A read after a write to the same cell gives the byte written, in a canonical memory. -/
theorem Memory.read_write_same {m : Memory} {a : Nat} (v : Byte) (h : Memory.wf m = true) :
    Memory.read (Memory.write m a v) a = v :=
  Memory.read_write_same_from v h

/-- Every 16-bit address is inside the memory. -/
theorem Addr.lt_memCells (addr : Addr) : addr.toNat < Config.memCells :=
  addr.isLt

/-- The loader's write keeps the canonical form. -/
theorem State.wf_writeByte {s : State} (addr : Addr) (v : Byte) (h : MemoryInv s) : MemoryInv (s.writeByte addr v) :=
  Memory.wf_write v addr.isLt h

end Sys2Proof.Machine
end

