-- ==== Sys2Proof/Laws/PerInstr.lean ====
section
/-! SUPPORT. Statements for all instructions, one lemma per constructor. -/

/-- The family TableRow: an instruction is well formed, and a row of the opcode table has its opcode byte as key, its mode,
and stands for it (R54, R57). -/
def Sys2Proof.Laws.TableRow.Statement (i : Sys2Proof.Instr) : Prop :=
  i.wf = true ∧ ∀ c : Sys2Proof.Config, ∃ row ∈ Sys2Proof.optab c,
    row.opcode = i.opcode c ∧ row.mode = i.mode ∧ row.instr i.operand = i

theorem Sys2Proof.Laws.TableRow.ldaImm (imm : Sys2Proof.Byte) :
    Sys2Proof.Laws.TableRow.Statement (.ldaImm imm) :=
  ⟨rfl, fun _ => ⟨_, List.mem_cons_self, rfl, rfl, rfl⟩⟩

theorem Sys2Proof.Laws.TableRow.ldaZp (zp : Sys2Proof.Byte) :
    Sys2Proof.Laws.TableRow.Statement (.ldaZp zp) :=
  ⟨rfl, fun _ => ⟨_, List.mem_cons_of_mem _ List.mem_cons_self, rfl, rfl, rfl⟩⟩
end

