-- ==== Sys2Proof/Laws/Step.lean ====
section
/-! SUPPORT. What a step can do, said once: one inversion lemma for each part of it, and one for the whole. -/

namespace Sys2Proof.Machine

open Sys2Proof

/-- The verdict at `pc`, in terms of the two cells the fetches read. -/
theorem State.decoded_eq (c : Config) (s : State) :
    s.decoded c = decode c (s.readByte s.pc) (s.readByte (s.pc + 1)) := rfl

theorem hostHasControl_false_iff (s : State) : s.hostHasControl = false ↔ EngineTurn s := by
  simp [State.hostHasControl, EngineTurn]

/-- Everything the host's move can do, when it answers a next state. -/
theorem hostTurn_cases {s t : State} (h : hostTurn s = .next t) :
    (s.commands = [] ∧ t = s) ∨
    (s.commands.head? = some .reset ∧ t = resetAction s.dequeue) ∨
    (∃ budget, s.commands.head? = some (.execute budget) ∧ s.initialised = true ∧ t = startRun budget s.dequeue) ∨
    (∃ addr v, s.commands.head? = some (.write addr v) ∧ t = s.dequeue.writeByte addr v) := by
  simp only [hostTurn] at h
  split at h
  · cases h
    exact .inl ⟨‹_›, rfl⟩
  · cases h
    exact .inr (.inl ⟨by simp [*], rfl⟩)
  · split at h
    · cases h
      exact .inr (.inr (.inl ⟨_, by simp [*], ‹_›, rfl⟩))
    · cases h
  · cases h
    exact .inr (.inr (.inr ⟨_, _, by simp [*], rfl⟩))

/-- Everything an instruction step can do; it always answers a next state. -/
theorem instrStep_cases (c : Config) (s : State) :
    (mayStart c s = false ∧ instrStep c s = .next (raiseHalt .outOfBudget s)) ∨
    (mayStart c s = true ∧ ∃ i, s.decoded c = .known i ∧ instrStep c s = exec i (s.latch (s.readByte s.pc))) ∨
    (mayStart c s = true ∧ decodeOpcode c (s.readByte s.pc) = none ∧ instrStep c s = .next (rejectOpcode s)) := by
  cases hm : mayStart c s
  · exact .inl ⟨rfl, by simp [instrStep, hm]⟩
  · cases hd : s.decoded c with
    | known i => exact .inr (.inl ⟨rfl, i, rfl, by simp [instrStep, hm, hd]⟩)
    | unknownOpcode b => exact .inr (.inr ⟨rfl, (decode_unknown hd).2, by simp [instrStep, hm, hd]⟩)

/-- Everything one transition of the sequencer can do. -/
theorem tick_cases (c : Config) (s : State) :
    (s.seq = .idle ∧ mayStart c s = true ∧ tick c s = s.setSeq .fetching) ∨
    (s.seq = .idle ∧ mayStart c s = false ∧ tick c s = raiseHalt .outOfBudget s) ∨
    (s.seq = .fetching ∧ tick c s = (fetchOpcode s).setSeq .decoding) ∨
    (s.seq = .decoding ∧ tick c s = s.setSeq .executing) ∨
    ((s.seq = .decoding ∨ s.seq = .executing) ∧ decodeOpcode c s.ir = none ∧
      tick c s = raiseHalt (.unknownOpcode s.ir) s) ∨
    (s.seq = .executing ∧ ∃ row, decodeOpcode c s.ir = some row ∧
      tick c s = (opLda (resolve row.mode s).1 (resolve row.mode s).2).setSeq .idle) ∨
    (s.seq = .halted ∧ tick c s = s) := by
  cases hq : s.seq with
  | idle =>
    cases hm : mayStart c s
    · exact .inr (.inl ⟨rfl, rfl, by simp [tick, tickIdle, hq, hm]⟩)
    · exact .inl ⟨rfl, rfl, by simp [tick, tickIdle, hq, hm]⟩
  | fetching => exact .inr (.inr (.inl ⟨rfl, by simp [tick, tickFetching, hq]⟩))
  | decoding =>
    cases hd : decodeOpcode c s.ir with
    | none => exact .inr (.inr (.inr (.inr (.inl ⟨.inl rfl, rfl, by simp [tick, tickDecoding, hq, hd]⟩))))
    | some row => exact .inr (.inr (.inr (.inl ⟨rfl, by simp [tick, tickDecoding, hq, hd]⟩)))
  | executing =>
    cases hd : decodeOpcode c s.ir with
    | none => exact .inr (.inr (.inr (.inr (.inl ⟨.inr rfl, rfl, by simp [tick, tickExecuting, hq, hd]⟩))))
    | some row =>
      exact .inr (.inr (.inr (.inr (.inr (.inl ⟨rfl, row, rfl, by simp [tick, tickExecuting, operate, hq, hd]⟩)))))
  | halted => exact .inr (.inr (.inr (.inr (.inr (.inr ⟨rfl, by simp [tick, hq]⟩)))))

/-- What every transition of the sequencer keeps, any number of them keeps. -/
theorem ticks_induction {c : Config} {P : State → Prop} (hstep : ∀ s, P s → P (tick c s)) :
    ∀ (k : Nat) (s : State), P s → P (ticks c k s)
  | 0, _, h => h
  | k + 1, s, h => ticks_induction hstep k (tick c s) (hstep s h)

/-- Everything a step can do, when it answers a next state. -/
theorem stepWith_cases {c : Config} {s t : State} (h : stepWith c s = .next t) :
    (s.hostHasControl = true ∧ hostTurn s = .next t) ∨
    (AtBoundary s ∧ mayStart c s = false ∧ t = raiseHalt .outOfBudget s) ∨
    (Starts c s ∧ ∃ i, s.decoded c = .known i ∧
      t = opLda (operandValue i s) (paid i (s.latch (s.readByte s.pc)))) ∨
    (Starts c s ∧ decodeOpcode c (s.readByte s.pc) = none ∧ t = rejectOpcode s) ∨
    (EngineTurn s ∧ s.seq ≠ .idle ∧ t = ticks c s.seq.ticksLeft s) := by
  cases hc : s.hostHasControl
  · have he := (hostHasControl_false_iff s).1 hc
    simp only [stepWith, hc, Bool.false_eq_true, if_false] at h
    by_cases hq : s.seq = .idle
    · simp only [hq] at h
      rcases instrStep_cases c s with ⟨hm, heq⟩ | ⟨hm, i, hi, heq⟩ | ⟨hm, hd, heq⟩
      · rw [heq] at h
        cases h
        exact .inr (.inl ⟨⟨he.1, hq⟩, hm, rfl⟩)
      · rw [heq, exec_eq_opLda] at h
        cases h
        refine .inr (.inr (.inl ⟨⟨⟨he.1, hq⟩, hm⟩, i, hi, ?_⟩))
        cases i <;> rfl
      · rw [heq] at h
        cases h
        exact .inr (.inr (.inr (.inl ⟨⟨⟨he.1, hq⟩, hm⟩, hd, rfl⟩)))
    · refine .inr (.inr (.inr (.inr ⟨he, hq, ?_⟩)))
      revert h
      cases hs : s.seq <;> intro h <;> first | exact absurd hs hq | (cases h; rfl)
  · exact .inl ⟨rfl, by simpa [stepWith, hc] using h⟩

end Sys2Proof.Machine
end

