-- ==== Sys2Proof/Tests/Slice0.lean ====
section
/-! SUPPORT. The model's own tests. Expected results are the spec's: its worked examples and vectors (95_test_vectors.md, S1 to
S9, V1 to V55, F1 to F8) or its encodings (30_encoding.md rule R50, opcode_table.json). After them, for every statement with
hypotheses, a witness that meets them. -/

namespace Sys2Proof.Tests

open Sys2Proof Sys2Proof.Machine

/-- A state at an instruction boundary with the given `pc` and budget and the given cells loaded after reset. -/
def boundary (pc : Addr) (rem : Int) (cells : List (Addr × Byte)) : State :=
  { cells.foldl (fun s cell => s.writeByte cell.1 cell.2) State.reset with pc := pc, rem := rem, seq := .idle }

/-- The halted state after reset with the given commands of the host. -/
def commanded (cmds : List HostCommand) : State :=
  { State.reset with commands := cmds }

/-- The next state of an outcome, if it is one. -/
def nextOf : Host.Outcome State Fault Refusal → Option State
  | .next t => some t
  | .fault _ => none
  | .refused _ => none

/-! ### Well-formedness -/

/-- The one check of the parameters refuses two equal opcode bytes (R6). -/
theorem test_equal_opcodes_ill_formed : Config.wf { opcLdaImm := 0xA5, opcLdaZp := 0xA5, policy := .overrun } = false := by
  decide

theorem test_chosen_well_formed : Config.wf Config.chosen = true := by decide

/-- No operand byte is refused (R57), at both ends of its range. -/
theorem test_operands_well_formed :
    Instr.wf (.ldaImm 0x00) = true ∧ Instr.wf (.ldaImm 0xFF) = true ∧ Instr.wf (.ldaZp 0x00) = true ∧
      Instr.wf (.ldaZp 0xFF) = true := by
  decide

/-! ### Decoding: words written out bit by bit -/

/-- `10101001 iiiiiiii` with i = 10000100 (R50, S1). -/
theorem test_decode_ldaImm : decode Config.chosen 0b10101001 0b10000100 = .known (.ldaImm 0x84) := by decide

/-- `10100101 aaaaaaaa` with a = 01000010 (R50, S2). -/
theorem test_decode_ldaZp : decode Config.chosen 0b10100101 0b01000010 = .known (.ldaZp 0x42) := by decide

/-- V19: every listed neighbour and historical opcode is unknown. -/
theorem test_decode_unknown :
    ([0x00, 0x01, 0xA4, 0xA6, 0xA8, 0xAA, 0xAD, 0xB5, 0xA1, 0xB1, 0xB9, 0xBD, 0xA2, 0xA0, 0x85, 0xEA, 0xFF] : List Byte).all
      (fun op => decode Config.chosen op 0x42 == .unknownOpcode op) = true := by
  decide

/-- The encoder writes the table's words, the opcode first. -/
theorem test_encode :
    encode Config.chosen (.ldaImm 0x84) = (0xA9, 0x84) ∧ encode Config.chosen (.ldaZp 0x42) = (0xA5, 0x42) := by
  decide

/-- Byte 1 of a table word is its bits 15..8; the table's own 8 bits give an operand of zeros; 0xEA is unknown. -/
theorem test_decodeTableWord :
    decodeTableWord 16 0x84A9 = some (.ldaImm 0x84) ∧ decodeTableWord 8 0xA5 = some (.ldaZp 0x00) ∧
      decodeTableWord 8 0xEA = none := by
  decide

/-! ### Primitives -/

/-- V2: the fetch at 0xFFFF wraps (F8). -/
theorem test_fetch_wraps :
    (fetch (boundary 0xFFFF 1 [(0xFFFF, 0xA5)])).1 = 0xA5 ∧ (fetch (boundary 0xFFFF 1 [(0xFFFF, 0xA5)])).2.pc = 0x0000 ∧
      (fetch (boundary 0xFFFF 1 [(0xFFFF, 0xA5)])).2.rem = 0 := by
  decide

/-- V8: the zero-page cell is 00FD, never FFFD (F2), and the dereference is paid (F1). -/
theorem test_resolve_zeroPage :
    (resolve .zeroPage (boundary 0xFFFD 2 [(0xFFFD, 0xFD), (0x00FD, 0x5A)])).1 = 0x5A ∧
      (resolve .zeroPage (boundary 0xFFFD 2 [(0xFFFD, 0xFD), (0x00FD, 0x5A)])).2.pc = 0xFFFE ∧
      (resolve .zeroPage (boundary 0xFFFD 2 [(0xFFFD, 0xFD), (0x00FD, 0x5A)])).2.rem = 0 := by
  decide

/-- V11, V13, V14, V16: the boundaries of the flag rule, as pairs zero, negative. -/
theorem test_setZN :
    ([0x00, 0x7F, 0x80, 0xFF] : List Byte).map
      (fun r => ((setZN r State.reset).flags.z, (setZN r State.reset).flags.n)) =
      [(true, false), (false, false), (false, true), (false, true)] := by
  decide

/-! ### Instructions, one step each -/

/-- S1, with `M[0084]` loaded too (F3: no fall-through into the zero-page arm). -/
theorem test_ldaImm_S1 :
    (nextOf (step (boundary 0xFFFC 2 [(0xFFFC, 0xA9), (0xFFFD, 0x84), (0x0084, 0x11)]))).map
      (fun t => (t.a, t.flags.n, t.flags.z, t.pc, t.rem)) = some (0x84, true, false, 0xFFFE, 0) := by
  decide

/-- V20 from a state whose old accumulator and flags say otherwise (V25b). -/
theorem test_ldaImm_zero :
    (nextOf (exec (.ldaImm 0x00) { State.reset with a := 0xFF, flags := { State.reset.flags with n := true } })).map
      (fun t => (t.a, t.flags.n, t.flags.z)) = some (0x00, false, true) := by
  decide

/-- S2: three cycles (F1). -/
theorem test_ldaZp_S2 :
    (nextOf (step (boundary 0xFFFC 3 [(0xFFFC, 0xA5), (0xFFFD, 0x42)]))).map
      (fun t => (t.a, t.flags.z, t.flags.n, t.pc, t.rem)) = some (0x00, true, false, 0xFFFE, 0) := by
  decide

/-- P4: opcode at FFFF, operand at 0000, data at 00FF. -/
theorem test_ldaZp_straddles :
    (nextOf (step (boundary 0xFFFF 3 [(0xFFFF, 0xA5), (0x0000, 0xFF), (0x00FF, 0x80)]))).map
      (fun t => (t.a, t.flags.z, t.flags.n, t.pc, t.rem)) = some (0x80, false, true, 0x0001, 0) := by
  decide

/-! ### Halts, policies, the host -/

/-- V51: the fetch of an unknown opcode is not undone (F4). -/
theorem test_unknown_opcode :
    (nextOf (step (boundary 0xFFFC 1 [(0xFFFC, 0xEA)]))).map (fun t => (t.pc, t.rem, t.cause, t.ir, t.diag)) =
      some (0xFFFD, 0, .unknownOpcode, 0xEA, [0xEA]) := by
  decide

/-- V49: the budget test wins over the unknown opcode. -/
theorem test_budget_first :
    (nextOf (step (boundary 0xFFFC 0 []))).map (fun t => (t.pc, t.rem, t.cause, t.diag)) =
      some (0xFFFC, 0, .outOfBudget, []) := by
  decide

/-- V44: a budget of 1 runs the whole load under `overrun` and none of it under `defer`. -/
theorem test_policies :
    (nextOf (stepWith { Config.chosen with policy := .overrun }
      (boundary 0xFFFC 1 [(0xFFFC, 0xA5), (0xFFFD, 0x42), (0x0042, 0xC0)]))).map (fun t => (t.a, t.pc, t.rem)) =
        some (0xC0, 0xFFFE, -2) ∧
    (nextOf (stepWith { Config.chosen with policy := .defer }
      (boundary 0xFFFC 1 [(0xFFFC, 0xA5), (0xFFFD, 0x42), (0x0042, 0xC0)]))).map (fun t => (t.a, t.pc, t.rem)) =
        some (0x00, 0xFFFC, 1) := by
  decide

/-- V54: `Reset` gives the table from any state; the stream stays. -/
theorem test_reset :
    resetAction { boundary 0x1234 7 [(0x0042, 0x99), (0xFFFC, 0xA9)] with
      a := 0x5A, x := 0x11, y := 0x22, sp := 0x01FD, cause := .unknownOpcode, seq := .halted, diag := [0x02] } =
      { State.reset with diag := [0x02] } := by
  decide

/-- The codes of rule R105's table. -/
theorem test_cause_codes :
    [Cause.none, .outOfBudget, .unknownOpcode, .addressOutOfRange].map Cause.code = [0, 1, 2, 3] := by
  decide

/-- The very next step after placing a word runs it: V22's instruction, and a word of 8 bits with an operand of zeros. -/
theorem test_withFetchWord :
    (nextOf (step (State.reset.withFetchWord 16 0x80A9))).map (fun t => (t.a, t.flags.n, t.pc)) = some (0x80, true, 0xFFFE) ∧
      (nextOf (step (State.reset.withFetchWord 8 0xA5))).map (fun t => (t.a, t.flags.z, t.pc)) =
        some (0x00, true, 0xFFFE) := by
  decide

/-! ### Witnesses: the hypotheses of each statement are met together -/

theorem witness_ResetCommandClearsTheMachine :
    (commanded [.reset, .reset]).hostHasControl = true ∧ (commanded [.reset, .reset]).commands.head? = some .reset ∧
      ((nextOf (step (commanded [.reset, .reset]))).bind (fun t => t.commands.head?)) = some .reset := by
  decide

theorem witness_ResetCommandHaltsTheSequencer :
    ({ commanded [.reset] with initialised := false, seq := .executing } : State).hostHasControl = true ∧
      ({ commanded [.reset] with initialised := false, seq := .executing } : State).commands.head? = some .reset := by
  decide

theorem witness_ExecuteStartsARun :
    (commanded [.execute (-3)]).initialised = true ∧ (commanded [.execute (-3)]).seq = .halted ∧
      (commanded [.execute (-3)]).commands.head? = some (.execute (-3)) := by
  decide

theorem witness_ExecuteBeforeResetIsRefused :
    ({ commanded [.execute 1] with initialised := false } : State).initialised = false ∧
      ({ commanded [.execute 1] with initialised := false } : State).commands.head? = some (.execute 1) := by
  decide

theorem witness_LoaderWriteStoresOneByte :
    MemoryInv (commanded [.write 0xFFFF 0x00]) ∧ (commanded [.write 0xFFFF 0x00]).hostHasControl = true ∧
      (commanded [.write 0xFFFF 0x00]).commands.head? = some (.write 0xFFFF 0x00) := by
  decide

theorem witness_HaltedEngineDoesNothing : State.reset.seq = .halted ∧ State.reset.commands = [] := by decide

theorem witness_HostObservesHaltedStatesOnly :
    State.reset.observe.isSome = true ∧ (boundary 0xFFFC 1 []).observe.isSome = false := by
  decide

/-- Both sides of the range's edge. -/
theorem witness_OnlyOutOfRangeAccessFaults : 65535 < 65536 ∧ 65536 ≤ 65536 ∧
    (match Memory.readChecked State.reset.mem 65535 with | .ok v => v == 0x00 | .error _ => false) = true ∧
    (match Memory.readChecked State.reset.mem 65536 with | .ok _ => false | .error e => e == .addressOutOfRange) = true := by
  decide

theorem witness_LdaImmediateLoadsItsOperandByte :
    Config.wf Config.chosen = true ∧ Starts Config.chosen (boundary 0xFFFF 1 [(0xFFFF, 0xA9), (0x0000, 0xFF)]) ∧
      (boundary 0xFFFF 1 [(0xFFFF, 0xA9), (0x0000, 0xFF)]).readByte 0xFFFF = Config.chosen.opcLdaImm := by
  decide

theorem witness_LdaZeroPageLoadsTheAddressedCell :
    Config.wf Config.chosen = true ∧ Starts Config.chosen (boundary 0xFFFF 1 [(0xFFFF, 0xA5), (0x0000, 0xFF)]) ∧
      (boundary 0xFFFF 1 [(0xFFFF, 0xA5), (0x0000, 0xFF)]).readByte 0xFFFF = Config.chosen.opcLdaZp := by
  decide

theorem witness_LoadsDifferInResolvingOnly : (boundary 0 1 [(0x00FF, 0x80)]).readByte (zeroPageAddr 0xFF) = 0x80 := by decide

theorem witness_LoadsCostWhatTheTableSays :
    (optab Config.chosen).map (fun row => (row.mode, row.bytes, row.cycles)) = [(.immediate, 2, 2), (.zeroPage, 2, 3)] := by
  decide

theorem witness_LoadsIgnoreOldRegistersAndFlags :
    ({ State.reset with a := 0xFF, sp := 0x01FD } : State).mem = State.reset.mem ∧
      ({ State.reset with a := 0xFF, sp := 0x01FD } : State).pc = State.reset.pc ∧
      ({ State.reset with a := 0xFF, sp := 0x01FD } : State).rem = State.reset.rem := by
  decide

theorem witness_DecodeOfEncodeIsTheInstruction :
    Config.wf { opcLdaImm := 0x00, opcLdaZp := 0xFF, policy := .defer } = true ∧ Instr.wf (.ldaZp 0xFF) = true := by
  decide

theorem witness_EncodeOfDecodeIsTheBytes : decode Config.chosen 0xA5 0xFF = .known (.ldaZp 0xFF) := by decide

/-- A byte that is a key, and one that is none. -/
theorem witness_DecodeIsTotalAndUnambiguous :
    Config.wf Config.chosen = true ∧ (∃ row ∈ optab Config.chosen, row.opcode = 0xA9) ∧
      ∀ row ∈ optab Config.chosen, row.opcode ≠ 0xA8 := by
  decide

theorem witness_OperandByteNeverDecides : decode Config.chosen 0xA9 0x00 = .known (.ldaImm 0x00) := by decide

theorem witness_StepRunsTheDecodedInstruction :
    Starts Config.chosen (boundary 0xFFFF 1 [(0xFFFF, 0xA9), (0x0000, 0x7F)]) ∧ Instr.wf (.ldaImm 0x7F) = true ∧
      (boundary 0xFFFF 1 [(0xFFFF, 0xA9), (0x0000, 0x7F)]).decoded Config.chosen = .known (.ldaImm 0x7F) := by
  decide

theorem witness_PlacedWordRunsNext : MemoryInv State.reset ∧ decodeTableWord 8 0xA9 = some (.ldaImm 0x00) := by decide

/-- One state for each clause; the two sides of the budget test at 0 and 1; the two sides of the table lookup. -/
theorem witness_SequencerTransitions :
    ((boundary 0 0 []).seq = .idle ∧ ¬ 0 < (boundary 0 0 []).rem ∧ 0 < (boundary 0 1 []).rem ∧
      Config.chosen.policy = .overrun) ∧
    ((boundary 0xFFFF 1 []).setSeq .fetching).seq = .fetching ∧
    (((boundary 0 1 []).latch 0xA9).setSeq .decoding).seq = .decoding ∧
    (decodeOpcode Config.chosen 0xA9).isSome = true ∧ decodeOpcode Config.chosen 0x00 = none ∧
    (((boundary 0 1 []).latch 0xA5).setSeq .executing).seq = .executing ∧
    (decodeOpcode Config.chosen 0xA5).isSome = true := by
  decide

theorem witness_StepEqualsTheFiveStateMachine :
    EngineTurn (boundary 0xFFFF 1 [(0xFFFF, 0xA5)]) ∧ EngineTurn (((boundary 0 1 []).latch 0xA9).setSeq .executing) := by
  decide

theorem witness_ExhaustedBudgetHaltsBeforeTheFetch : AtBoundary (boundary 0 0 []) ∧ (boundary 0 0 []).rem ≤ 0 := by decide

theorem witness_UnknownOpcodeHaltsPrecisely :
    Starts Config.chosen (boundary 0xFFFF 1 [(0xFFFF, 0xEA)]) ∧
      decodeOpcode Config.chosen ((boundary 0xFFFF 1 [(0xFFFF, 0xEA)]).readByte 0xFFFF) = none := by
  decide

theorem witness_BudgetIsNotReadInsideAnInstruction : (((boundary 0 0 []).latch 0xA5).setSeq .executing).seq ≠ .idle := by decide

theorem witness_OverrunOverdrawsByAtMostTwo :
    Config.chosen.policy = .overrun ∧ AtBoundary (boundary 0 1 [(0, 0xA5)]) ∧ 0 < (boundary 0 1 [(0, 0xA5)]).rem := by
  decide

/-- An instruction one cycle dearer than the budget, and an exhausted budget. -/
theorem witness_DeferNeverOverdraws :
    ({ Config.chosen with policy := .defer } : Config).policy = .defer ∧ AtBoundary (boundary 0 2 [(0, 0xA5)]) ∧
      0 ≤ (boundary 0 0 [(0, 0xA5)]).rem ∧
      (decodeOpcode Config.chosen ((boundary 0 2 [(0, 0xA5)]).readByte 0)).map
        (fun row => decide ((boundary 0 2 [(0, 0xA5)]).rem < row.cycles)) = some true := by
  decide

/-- A budget that is exactly the instruction's cost; and an unknown opcode, on which the condition asks nothing. -/
theorem witness_PoliciesAgreeOnPaidInstructions :
    AtBoundary (boundary 0 3 [(0, 0xA5)]) ∧
      (decodeOpcode Config.chosen ((boundary 0 3 [(0, 0xA5)]).readByte 0)).map
        (fun row => decide ((row.cycles : Int) ≤ (boundary 0 3 [(0, 0xA5)]).rem)) = some true ∧
      decodeOpcode Config.chosen ((boundary 0 1 []).readByte 0) = none := by
  decide

/-- A run that ends out of budget after overdrawing it, in two steps. -/
theorem witness_EveryRunHalts :
    AtBoundary (boundary 0 1 [(0, 0xA5)]) ∧ 0 < (boundary 0 1 [(0, 0xA5)]).rem ∧
      (nextOf (Host.Core.run core 2 (boundary 0 1 [(0, 0xA5)]))).map (fun t => (t.seq, t.cause, t.rem)) =
        some (.halted, .outOfBudget, -2) := by
  decide

theorem witness_StepKeepsRegistersInvariant :
    ∃ t, RegistersInv (boundary 0 1 [(0, 0xA9), (1, 0x80)]) ∧ step (boundary 0 1 [(0, 0xA9), (1, 0x80)]) = .next t :=
  ⟨_, by decide, rfl⟩

theorem witness_StepKeepsMemoryCanonical :
    ∃ t, MemoryInv (commanded [.write 0xFFFF 0x01]) ∧ step (commanded [.write 0xFFFF 0x01]) = .next t :=
  ⟨_, by decide, rfl⟩

theorem witness_StepKeepsHaltRecord :
    ∃ t, CauseInv (boundary 0 1 []) ∧ UnknownOpcodeRecord Config.chosen (boundary 0 1 []) ∧ step (boundary 0 1 []) = .next t :=
  ⟨_, by decide, by decide, rfl⟩

/-- In an engine's turn, and in the host's with a command that is no `Reset`. -/
theorem witness_ZeroFlagTracksAccumulatorAfterALoad :
    (∃ t, ZeroFlagTracksA ({ boundary 0 1 [(0, 0xA9)] with a := 0x01 } : State) ∧
      ({ boundary 0 1 [(0, 0xA9)] with a := 0x01 } : State).hostHasControl = false ∧
      step { boundary 0 1 [(0, 0xA9)] with a := 0x01 } = .next t) ∧
    ∃ t, ZeroFlagTracksA ({ commanded [.execute 1] with a := 0x01 } : State) ∧
      NoResetNext ({ commanded [.execute 1] with a := 0x01 } : State) ∧ step { commanded [.execute 1] with a := 0x01 } = .next t :=
  ⟨⟨_, by decide, by decide, rfl⟩, ⟨_, by decide, by decide, rfl⟩⟩

theorem witness_ResetInstanceNeverStops : State.reset.initialised = true := by decide

theorem witness_EngineLeavesTheRestUnchanged : EngineTurn (boundary 0xFFFF 1 [(0xFFFF, 0xA9)]) := by decide

/-- The three outcomes at a boundary, and a host's command other than `Reset`. -/
theorem witness_PcMovesByFetchesOnly :
    AtBoundary (boundary 0 0 []) ∧ AtBoundary (boundary 0 1 []) ∧ AtBoundary (boundary 0xFFFF 1 [(0xFFFF, 0xA9)]) ∧
      ∃ t, (commanded [.execute 0]).hostHasControl = true ∧ NoResetNext (commanded [.execute 0]) ∧
        step (commanded [.execute 0]) = .next t :=
  ⟨by decide, by decide, by decide, _, by decide, by decide, rfl⟩

/-- A step that halts on an unknown opcode, and one that emits nothing. -/
theorem witness_OneDiagnosticPerUnknownOpcode :
    (∃ t, step (boundary 0 1 []) = .next t ∧ t.diag = [0x00] ∧ t.ir = 0x00) ∧
      ∃ t, step (boundary 0 1 [(0, 0xA9)]) = .next t ∧ t.diag = [] :=
  ⟨⟨_, rfl, by decide, by decide⟩, ⟨_, rfl, by decide⟩⟩

theorem witness_DiagnosticStreamIsNeverReadBack : ∃ t, step (boundary 0xFFFF 1 [(0xFFFF, 0xEA)]) = .next t := ⟨_, rfl⟩

theorem witness_OpcodeLatchIsNotObservable : AtBoundary (boundary 0 0 []) ∧ AtBoundary (boundary 0 1 [(0, 0xA5)]) := by decide

end Sys2Proof.Tests
end

section
/-! The decoder's verdict on every opcode byte (30_encoding.md rule R55). The table's keys are distinct, so the first row with a
given key is the only one. -/

namespace Sys2Proof

theorem decode_of_decodeOpcode_some {c : Config} {op : Byte} {row : Row} (h : decodeOpcode c op = some row)
    (operand : Byte) : decode c op operand = .known (row.instr operand) := by
  simp [decode, h]

theorem decode_of_decodeOpcode_none {c : Config} {op : Byte} (h : decodeOpcode c op = none) (operand : Byte) :
    decode c op operand = .unknownOpcode op := by
  simp [decode, h]

theorem decodeOpcode_eq_none_iff (c : Config) (op : Byte) :
    decodeOpcode c op = none ↔ ∀ row ∈ optab c, row.opcode ≠ op := by
  simp [decodeOpcode]

/-- R6's constraint on the parameters is what keeps the keys of the table distinct. -/
theorem optab_keys_distinct {c : Config} (hc : c.wf = true) :
    (optab c).Pairwise (fun r r' => r.opcode ≠ r'.opcode) := by
  simpa [optab] using (Config.wf_iff c).mp hc

/-- The key determines the row. -/
theorem optab_row_unique {c : Config} (hc : c.wf = true) {row row' : Row} (hrow : row ∈ optab c)
    (hrow' : row' ∈ optab c) (hkey : row.opcode = row'.opcode) : row = row' :=
  List.inj_on_of_nodup_map (List.pairwise_map.mpr (optab_keys_distinct hc)) hrow hrow' hkey

/-- The lookup finds some row with the key of `row`, and that can only be `row`. -/
theorem decodeOpcode_opcode_of_mem {c : Config} (hc : c.wf = true) {row : Row} (hrow : row ∈ optab c) :
    decodeOpcode c row.opcode = some row := by
  cases hfound : decodeOpcode c row.opcode with
  | none => exact absurd rfl ((decodeOpcode_eq_none_iff c _).mp hfound row hrow)
  | some row' =>
    obtain ⟨hrow', hkey⟩ := decodeOpcode_some hfound
    rw [optab_row_unique hc hrow' hrow hkey]

/-- Settles O23: the keys are distinct, so the lookup answers the one row that has the byte as key, or none. -/
theorem decodeIsTotalAndUnambiguous : Obligations.DecodeIsTotalAndUnambiguous := by
  intro c hc
  refine ⟨optab_keys_distinct hc, fun op operand => ⟨?_, fun hnone => ?_⟩⟩
  · rintro row hrow rfl
    have hfound := decodeOpcode_opcode_of_mem hc hrow
    exact ⟨hfound, decode_of_decodeOpcode_some hfound operand⟩
  · have hunknown := (decodeOpcode_eq_none_iff c op).mpr hnone
    exact ⟨hunknown, decode_of_decodeOpcode_none hunknown operand⟩

end Sys2Proof
end

section
/-! The two addressing modes (30_encoding.md rules R52 and R53, 40_engine_primitives.md rules R67 and R68). -/

namespace Sys2Proof.Machine

open Sys2Proof

@[simp] theorem operandValue_ldaImm (imm : Byte) (s : State) : operandValue (.ldaImm imm) s = imm := rfl
@[simp] theorem operandValue_ldaZp (zp : Byte) (s : State) :
    operandValue (.ldaZp zp) s = s.readByte (zeroPageAddr zp) := rfl

@[simp] theorem resolve_immediate (s : State) : resolve .immediate s = (s.readByte s.pc, s.consume) := rfl
@[simp] theorem resolve_zeroPage (s : State) :
    resolve .zeroPage s = (s.readByte (zeroPageAddr (s.readByte s.pc)), s.consume.spendCycle) := rfl

/-- The high byte of a zero-page address is 0x00. -/
@[simp] theorem zeroPageAddr_toNat (zp : Byte) : (zeroPageAddr zp).toNat = zp.toNat :=
  BitVec.toNat_setWidth_of_le (by decide)

theorem zeroPageAddr_le (zp : Byte) : (zeroPageAddr zp).toNat ≤ 0x00FF := by
  rw [zeroPageAddr_toNat]
  exact Nat.le_of_lt_succ zp.isLt

theorem State.readByte_zeroPageAddr (zp : Byte) (s : State) :
    s.readByte (zeroPageAddr zp) = Memory.read s.mem zp.toNat := by
  rw [State.readByte, zeroPageAddr_toNat]

/-- One fetch and one dereference cost two cycles and move `pc` by one. -/
theorem State.consume_spendCycle (s : State) :
    s.consume.spendCycle = { s with pc := s.pc + 1, rem := s.rem - 2 } := by
  have hrem : s.rem - 1 - 1 = s.rem - 2 := by omega
  rw [State.spendCycle, State.consume, hrem]

/-- Settles O10: resolving an immediate is one `Fetch()`. -/
theorem immediateOperandIsTheNextByte : Obligations.ImmediateOperandIsTheNextByte := by
  intro s
  rw [resolve_immediate]
  exact ⟨rfl, rfl, fun imm => operandValue_ldaImm imm s⟩

/-- Settles O11: one `Fetch()` gives the address byte, whose zero-extension is the address dereferenced. -/
theorem zeroPageOperandIsInTheFirstPage : Obligations.ZeroPageOperandIsInTheFirstPage := by
  intro s
  rw [resolve_zeroPage]
  refine ⟨State.readByte_zeroPageAddr _ s, State.consume_spendCycle s, fun zp => ?_⟩
  exact ⟨zeroPageAddr_toNat zp, zeroPageAddr_le zp, State.readByte_zeroPageAddr zp s⟩

end Sys2Proof.Machine
end

section
/-! `Fetch()` and the shared flag routine (40_engine_primitives.md rules R65 and R69). -/

namespace Sys2Proof.Machine

open Sys2Proof

/-- `pc` wraps at 65,536 (10_state.md rule R14). -/
theorem State.consume_pc_toNat (s : State) : s.consume.pc.toNat = (s.pc.toNat + 1) % 65536 := by
  rw [State.consume_pc]
  exact BitVec.toNat_add s.pc 1

/-- Settles O9: the byte is the cell at `pc`, and the state after is `consume`'s. -/
theorem fetchConsumesOneByte : Obligations.FetchConsumesOneByte := by
  intro s
  rw [fetch_fst, fetch_snd]
  exact ⟨rfl, State.consume_pc_toNat s, rfl⟩

theorem setZN_z (r : Byte) (s : State) : (setZN r s).flags.z = decide (r = 0x00) := rfl

theorem setZN_n (r : Byte) (s : State) : (setZN r s).flags.n = decide (0x80 ≤ r.toNat) :=
  BitVec.msb_eq_decide r

/-- A byte of 0x00 lies below 0x80. -/
theorem setZN_not_z_and_n (r : Byte) (s : State) :
    ¬((setZN r s).flags.z = true ∧ (setZN r s).flags.n = true) := by
  rw [setZN_z, setZN_n, decide_eq_true_eq, decide_eq_true_eq]
  rintro ⟨rfl, hge⟩
  exact absurd hge (by decide)

/-- Settles O12: `SetZN` on any byte; and a load, whatever its mode, runs `SetZN` on its effective operand value. -/
theorem zeroAndNegativeFlagsFollowTheResult : Obligations.ZeroAndNegativeFlagsFollowTheResult := by
  refine ⟨fun r s => ⟨setZN_z r s, setZN_n r s, setZN_not_z_and_n r s, rfl⟩, fun i s => ?_⟩
  exact ⟨_, exec_eq_opLda i s, setZN_z _ _, setZN_n _ _⟩

end Sys2Proof.Machine
end

section
/-! The static cost table, and that it agrees with the primitives an instruction is made of (40_engine_primitives.md rules R71
and R72). -/

namespace Sys2Proof.Machine

open Sys2Proof

/-- The mode of a row fixes its costs. -/
theorem optab_costs {c : Config} {row : Row} (hrow : row ∈ optab c) :
    row.bytes = 2 ∧ (row.mode = .immediate → row.cycles = 2) ∧ (row.mode = .zeroPage → row.cycles = 3) := by
  rw [optab, List.mem_pair] at hrow
  obtain rfl | rfl := hrow
  · exact ⟨rfl, fun _ => rfl, nofun⟩
  · exact ⟨rfl, nofun, fun _ => rfl⟩

/-- Every instruction has its row in the table. -/
theorem optab_row_of_instr (c : Config) (i : Instr) : ∃ row ∈ optab c, row.opcode = i.opcode c ∧ row.mode = i.mode := by
  have hrow : Laws.TableRow.Statement i := by
    cases i with
    | ldaImm imm => exact Laws.TableRow.ldaImm imm
    | ldaZp zp => exact Laws.TableRow.ldaZp zp
  obtain ⟨row, hmem, hopcode, hmode, -⟩ := hrow.2 c
  exact ⟨row, hmem, hopcode, hmode⟩

/-- The dereference does not move `pc`, so the bytes consumed are the two fetched. -/
theorem paid_pc (i : Instr) (s : State) : (paid i s).pc = s.consume.consume.pc := by
  cases i <;> rfl

theorem paid_pc_toNat (i : Instr) (s : State) : (paid i s).pc.toNat = (s.pc.toNat + 2) % 65536 := by
  rw [paid_pc, State.consume_pc_toNat, State.consume_pc_toNat, Nat.mod_add_mod]

/-- The cycles of an instruction's fetches, and of the dereference, are those in the row of its mode. -/
theorem paid_rem {c : Config} {row : Row} (hrow : row ∈ optab c) {i : Instr} (hmode : row.mode = i.mode) (s : State) :
    (paid i s).rem = s.rem - row.cycles := by
  obtain ⟨-, himm, hzp⟩ := optab_costs hrow
  cases i with
  | ldaImm imm =>
    rw [himm hmode, paid, State.consume_rem, State.consume_rem]
    omega
  | ldaZp zp =>
    rw [hzp hmode, paid, State.spendCycle_rem, State.consume_rem, State.consume_rem]
    omega

/-- Settles O19: the load operation itself costs nothing, so what `exec` consumes is what `paid` did. -/
theorem loadsCostWhatTheTableSays : Obligations.LoadsCostWhatTheTableSays := by
  refine ⟨fun c row hrow => optab_costs hrow, fun c i s => ?_⟩
  obtain ⟨row, hrow, hopcode, hmode⟩ := optab_row_of_instr c i
  refine ⟨row, hrow, hopcode, hmode, _, exec_eq_opLda i s, ?_, ?_⟩
  · rw [opLda_pc, paid_pc_toNat, (optab_costs hrow).1]
  · rw [opLda_rem, paid_rem hrow hmode]

end Sys2Proof.Machine
end

section
/-! An instruction that stands encoded at `pc` is the one a step runs (42_dispatch_loop.md rules R89, R97 and R99). -/

namespace Sys2Proof.Machine

open Sys2Proof

theorem tableRow_of_instr : ∀ i : Instr, Laws.TableRow.Statement i
  | .ldaImm imm => Laws.TableRow.ldaImm imm
  | .ldaZp zp => Laws.TableRow.ldaZp zp

/-- The lookup on an instruction's opcode finds its own row, which gives the instruction back. -/
theorem decode_opcode_operand {c : Config} (hc : c.wf = true) (i : Instr) :
    decode c (i.opcode c) i.operand = .known i := by
  obtain ⟨-, hrows⟩ := tableRow_of_instr i
  obtain ⟨row, hrow, hopcode, -, hinstr⟩ := hrows c
  rw [← hopcode, decode_of_decodeOpcode_some (decodeOpcode_opcode_of_mem hc hrow), hinstr]

/-- Where an instruction starts, a step runs the instruction decoded. -/
theorem stepWith_of_decoded {c : Config} {s : State} {i : Instr} (hstart : Starts c s)
    (hdec : s.decoded c = .known i) : stepWith c s = exec i (s.latch (s.readByte s.pc)) := by
  obtain ⟨⟨hinit, hidle⟩, hmay⟩ := hstart
  have hturn : s.hostHasControl = false := (hostHasControl_false_iff s).mpr ⟨hinit, by simp [hidle]⟩
  simp [stepWith, instrStep, hturn, hidle, hmay, hdec]

/-- The two bytes at `pc` are those of `i` (R50), so `i` is decoded and run. -/
theorem stepWith_of_encoded {c : Config} {s : State} (hc : c.wf = true) (hstart : Starts c s) (i : Instr)
    (hopcode : s.readByte s.pc = i.opcode c) (hoperand : s.readByte (s.pc + 1) = i.operand) :
    stepWith c s = exec i (s.latch (s.readByte s.pc)) := by
  refine stepWith_of_decoded hstart ?_
  rw [State.decoded_eq, hopcode, hoperand, decode_opcode_operand hc]

end Sys2Proof.Machine
end

section
/-! The two loads, whole (41_load_accumulator.md rules R80 and R81): the bytes fetched and the cycles paid, then the one
operation they share. -/

namespace Sys2Proof.Machine

open Sys2Proof

/-- `x[A] <- v`, then `flag.Z` and `flag.N` from it (R82, R69), with bit 7 as R80 and R81 write it. -/
theorem opLda_eq (v : Byte) (s : State) :
    opLda v s = { s with a := v, flags := { s.flags with z := decide (v = 0x00), n := v.getLsbD 7 } } := by
  have hbit7 : v.msb = v.getLsbD 7 := BitVec.msb_eq_getLsbD_last v
  rw [← hbit7]
  rfl

/-- Two fetches move `pc` by two and cost two cycles. -/
theorem State.consume_consume (s : State) :
    s.consume.consume = { s with pc := s.pc + 2, rem := s.rem - 2 } := by
  have hpc : s.pc + 1 + 1 = s.pc + 2 := BitVec.add_assoc s.pc 1 1
  have hrem : s.rem - 1 - 1 = s.rem - 2 := by omega
  simp only [State.consume, hpc, hrem]

theorem paid_ldaImm (imm : Byte) (s : State) :
    paid (.ldaImm imm) s = { s with pc := s.pc + 2, rem := s.rem - 2 } :=
  State.consume_consume s

/-- The dereference adds its one cycle (R68). -/
theorem paid_ldaZp (zp : Byte) (s : State) :
    paid (.ldaZp zp) s = { s with pc := s.pc + 2, rem := s.rem - 3 } := by
  have hrem : s.rem - 2 - 1 = s.rem - 3 := by omega
  rw [paid, State.consume_consume, State.spendCycle, hrem]

/-- R80, the whole instruction. -/
theorem exec_ldaImm (imm : Byte) (s : State) :
    exec (.ldaImm imm) s =
      .next { s with a := imm, pc := s.pc + 2, rem := s.rem - 2,
                     flags := { s.flags with z := decide (imm = 0x00), n := imm.getLsbD 7 } } := by
  rw [exec_eq_opLda, operandValue_ldaImm, paid_ldaImm, opLda_eq]

/-- R81, the whole instruction. -/
theorem exec_ldaZp (zp : Byte) (s : State) :
    exec (.ldaZp zp) s =
      .next { s with a := Memory.read s.mem zp.toNat, pc := s.pc + 2, rem := s.rem - 3,
                     flags := { s.flags with z := decide (Memory.read s.mem zp.toNat = 0x00),
                                             n := (Memory.read s.mem zp.toNat).getLsbD 7 } } := by
  rw [exec_eq_opLda, operandValue_ldaZp, State.readByte_zeroPageAddr, paid_ldaZp, opLda_eq]

/-- Settles O15: a step runs `LDA #imm` with the byte at `pc + 1`, and the latch of the opcode touches none of its effects. -/
theorem ldaImmediateLoadsItsOperandByte : Obligations.LdaImmediateLoadsItsOperandByte := by
  refine ⟨exec_ldaImm, fun c s hc hstart hopcode => ?_⟩
  have hstep := stepWith_of_encoded hc hstart (.ldaImm (s.readByte (s.pc + 1))) hopcode rfl
  exact ⟨_, hstep.trans (exec_ldaImm _ _), rfl, rfl, rfl, rfl, rfl, rfl, rfl, rfl⟩

/-- Settles O16: a step runs `LDA zp` with the address byte at `pc + 1`, and the latch of the opcode touches none of its
effects. -/
theorem ldaZeroPageLoadsTheAddressedCell : Obligations.LdaZeroPageLoadsTheAddressedCell := by
  refine ⟨exec_ldaZp, fun c s hc hstart hopcode => ?_⟩
  have hstep := stepWith_of_encoded hc hstart (.ldaZp (s.readByte (s.pc + 1))) hopcode rfl
  exact ⟨_, hstep.trans (exec_ldaZp _ _), rfl, rfl, rfl, rfl, rfl, rfl, rfl, rfl⟩

end Sys2Proof.Machine
end

section
/-! The sequencer's transitions, one equation per state of it (42_dispatch_loop.md rules R88 to R93). -/

namespace Sys2Proof.Machine

open Sys2Proof

theorem mayStart_overrun_eq {c : Config} (hpolicy : c.policy = .overrun) (s : State) :
    mayStart c s = decide (0 < s.rem) :=
  Bool.eq_iff_iff.mpr ((mayStart_overrun hpolicy s).trans decide_eq_true_iff.symm)

/-- A halt out of budget emits no diagnostic (R110). -/
theorem raiseHalt_outOfBudget (s : State) :
    raiseHalt .outOfBudget s = { s with seq := .halted, cause := .outOfBudget } := by
  rw [raiseHalt, HaltReason.events_outOfBudget, List.append_nil, HaltReason.cause_outOfBudget]

/-- A halt on an unknown opcode emits that byte (R110). -/
theorem raiseHalt_unknownOpcode (b : Byte) (s : State) :
    raiseHalt (.unknownOpcode b) s =
      { s with seq := .halted, cause := .unknownOpcode, diag := s.diag ++ [b] } := rfl

theorem tick_idle (c : Config) {s : State} (hidle : s.seq = .idle) :
    tick c s = if mayStart c s then s.setSeq .fetching else raiseHalt .outOfBudget s := by
  simp only [tick, hidle, tickIdle]

theorem tick_fetching (c : Config) {s : State} (hfetching : s.seq = .fetching) :
    tick c s = (s.consume.latch (s.readByte s.pc)).setSeq .decoding := by
  simp only [tick, hfetching, tickFetching, fetchOpcode_eq]

theorem tick_decoding_known {c : Config} {s : State} {row : Row} (hdecoding : s.seq = .decoding)
    (hrow : decodeOpcode c s.ir = some row) : tick c s = s.setSeq .executing := by
  simp only [tick, hdecoding, tickDecoding, hrow]

theorem tick_decoding_unknown {c : Config} {s : State} (hdecoding : s.seq = .decoding)
    (hnone : decodeOpcode c s.ir = none) : tick c s = raiseHalt (.unknownOpcode s.ir) s := by
  simp only [tick, hdecoding, tickDecoding, hnone]

/-- The table's one operation is the load (R92, R82). -/
theorem tick_executing_known {c : Config} {s : State} {row : Row} (hexecuting : s.seq = .executing)
    (hrow : decodeOpcode c s.ir = some row) :
    tick c s = (opLda (resolve row.mode s).1 (resolve row.mode s).2).setSeq .idle := by
  simp only [tick, hexecuting, tickExecuting, hrow, operate]

theorem tick_halted (c : Config) {s : State} (hhalted : s.seq = .halted) : tick c s = s := by
  simp only [tick, hhalted]

/-- Being the halted state `s` is kept by every transition. -/
theorem ticks_halted (c : Config) (k : Nat) {s : State} (hhalted : s.seq = .halted) : ticks c k s = s := by
  have hkeep : ∀ t, t = s → tick c t = s := by
    rintro t rfl
    exact tick_halted c hhalted
  exact ticks_induction hkeep k s rfl

/-- With no command pending the host's move leaves the state as it is (R93). -/
theorem hostTurn_no_command {s : State} (hcommands : s.commands = []) : hostTurn s = .next s := by
  simp only [hostTurn, hcommands]

/-- While the engine is halted a step is the host's move (R25). -/
theorem stepWith_halted (c : Config) {s : State} (hhalted : s.seq = .halted) : stepWith c s = hostTurn s := by
  have hturn : s.hostHasControl = true := by simp [State.hostHasControl, hhalted]
  rw [stepWith, if_pos hturn]

/-- Settles O7: `Halted` has no transition of its own, and the step there is the host's move. -/
theorem haltedEngineDoesNothing : Obligations.HaltedEngineDoesNothing := by
  refine fun s hhalted => ⟨fun c k => ticks_halted c k hhalted, fun hcommands => ?_⟩
  exact (stepWith_halted Config.chosen hhalted).trans (hostTurn_no_command hcommands)

/-- Settles O29: one equation for each state of the sequencer, with the record updates of its operations written out. -/
theorem sequencerTransitions : Obligations.SequencerTransitions := by
  refine fun c s => ⟨fun hidle hpolicy => ?idle, tick_fetching c,
    fun hdecoding _ hrow => tick_decoding_known hdecoding hrow, fun hdecoding hnone => ?unknown,
    fun hexecuting _ hrow => tick_executing_known hexecuting hrow⟩
  case idle =>
    rw [tick_idle c hidle, raiseHalt_outOfBudget]
    simp only [mayStart_overrun_eq hpolicy, decide_eq_true_iff, State.setSeq]
  case unknown => rw [tick_decoding_unknown hdecoding hnone, raiseHalt_unknownOpcode]

end Sys2Proof.Machine
end

section
/-! The halt's entry, one equation per reason, and the turn it gives the host (60_exceptions.md rule R108). -/

namespace Sys2Proof.Machine

open Sys2Proof

@[simp] theorem HaltReason.cause_addressOutOfRange : HaltReason.addressOutOfRange.cause = .addressOutOfRange := rfl
@[simp] theorem HaltReason.events_addressOutOfRange : HaltReason.addressOutOfRange.events = [] := rfl

/-- A halt on an address out of range emits no diagnostic (R110). -/
theorem raiseHalt_addressOutOfRange (s : State) :
    raiseHalt .addressOutOfRange s = { s with seq := .halted, cause := .addressOutOfRange } := by
  rw [raiseHalt, HaltReason.events_addressOutOfRange, List.append_nil, HaltReason.cause_addressOutOfRange]

/-- In `Halted` the host has control (R25). -/
theorem hostHasControl_of_halted {s : State} (hhalted : s.seq = .halted) : s.hostHasControl = true := by
  simp [State.hostHasControl, hhalted]

/-- Settles O13: the entry's three assignments for each reason, and the host's turn from the `Halted` it enters. -/
theorem haltEntryChangesThreeThings : Obligations.HaltEntryChangesThreeThings := fun s b =>
  ⟨raiseHalt_unknownOpcode b s, raiseHalt_outOfBudget s, raiseHalt_addressOutOfRange s,
    fun r => hostHasControl_of_halted (raiseHalt_seq s r)⟩

end Sys2Proof.Machine
end

section
/-! `Reset`, which the host may issue whenever it has control, before the first one too (70_reset_and_hazards.md rules R125 to
R128). -/

namespace Sys2Proof.Machine

open Sys2Proof

theorem stepWith_of_hostHasControl (c : Config) {s : State} (hcontrol : s.hostHasControl = true) :
    stepWith c s = hostTurn s := by
  rw [stepWith, if_pos hcontrol]

theorem hostTurn_reset {s : State} (hreset : s.commands.head? = some .reset) :
    hostTurn s = .next (resetAction s.dequeue) := by
  obtain ⟨rest, hcommands⟩ := List.head?_eq_some_iff.mp hreset
  simp only [hostTurn, hcommands]

/-- The step takes the command and runs the reset action, whatever the state. -/
theorem step_reset {s : State} (hcontrol : s.hostHasControl = true) (hreset : s.commands.head? = some .reset) :
    step s = .next (resetAction s.dequeue) :=
  (stepWith_of_hostHasControl Config.chosen hcontrol).trans (hostTurn_reset hreset)

/-- The reset action leaves the host in control, so that it can issue `Reset` again (R128). -/
theorem resetAction_hostHasControl (s : State) : (resetAction s).hostHasControl = true :=
  hostHasControl_of_halted (resetAction_seq s)

/-- The reset action reads nothing of the state it replaces but the stream and the pending commands, which it keeps; a second
one therefore changes nothing (R128). -/
theorem resetAction_dequeue_resetAction (s : State) :
    resetAction (resetAction s).dequeue = (resetAction s).dequeue := rfl

/-- Settles O1: the step answers the reset action's state, whose registers and flags are constants and whose memory lists no
cell; a second `Reset` is a step of the same kind, and the action is idempotent. -/
theorem resetCommandClearsTheMachine : Obligations.ResetCommandClearsTheMachine := by
  refine fun s hcontrol hreset => ⟨resetAction s.dequeue, step_reset hcontrol hreset, resetAction_a _, resetAction_x _,
    resetAction_y _, resetAction_flags _, resetAction_pc _, resetAction_sp _, fun addr => ?cleared,
    resetAction_hostHasControl _, fun hagain => ?again⟩
  case cleared => rw [resetAction_mem, Memory.read, Config.clearedByte]
  case again =>
    have hsecond := step_reset (resetAction_hostHasControl s.dequeue) hagain
    rwa [resetAction_dequeue_resetAction] at hsecond

end Sys2Proof.Machine
end

section
/-! The encoder and the decoder are inverse to each other, and the operand byte takes no part in the verdict
(30_encoding.md rules R50, R54 to R58). -/

namespace Sys2Proof

theorem Row.instr_operand (row : Row) (operand : Byte) : (row.instr operand).operand = operand := by
  obtain ⟨_, mode, op, _, _⟩ := row
  cases op
  cases mode <;> rfl

theorem Row.instr_mode (row : Row) (operand : Byte) : (row.instr operand).mode = row.mode := by
  obtain ⟨_, mode, op, _, _⟩ := row
  cases op
  cases mode <;> rfl

/-- The mode of a row of the table determines its key, so the instruction of a row has the row's opcode byte. -/
theorem optab_instr_opcode {c : Config} {row : Row} (hrow : row ∈ optab c) (operand : Byte) :
    (row.instr operand).opcode c = row.opcode := by
  rw [optab, List.mem_pair] at hrow
  obtain rfl | rfl := hrow <;> rfl

theorem Instr.wf_eq_true : ∀ i : Instr, i.wf = true
  | .ldaImm _ => rfl
  | .ldaZp _ => rfl

theorem decodeOpcode_eq_none_iff_ne (c : Config) (op : Byte) :
    decodeOpcode c op = none ↔ op ≠ c.opcLdaImm ∧ op ≠ c.opcLdaZp := by
  rw [decodeOpcode_eq_none_iff]
  simp [optab, eq_comm]

theorem decode_eq_unknown_iff (c : Config) (op operand : Byte) :
    decode c op operand = .unknownOpcode op ↔ decodeOpcode c op = none :=
  ⟨fun h => (decode_unknown h).2, fun h => decode_of_decodeOpcode_none h operand⟩

/-- Settles O21: the encoding is the opcode byte and the operand, and the lookup on an instruction's own opcode byte
finds the row that gives the instruction back. -/
theorem decodeOfEncodeIsTheInstruction : Obligations.DecodeOfEncodeIsTheInstruction :=
  fun _ i hc _ => Machine.decode_opcode_operand hc i

/-- Settles O22: what is decoded is the instruction of a row whose key is the opcode byte, with the operand byte. -/
theorem encodeOfDecodeIsTheBytes : Obligations.EncodeOfDecodeIsTheBytes := by
  intro c op operand i hdecode
  obtain ⟨row, hfound, rfl⟩ := decode_known hdecode
  obtain ⟨hrow, rfl⟩ := decodeOpcode_some hfound
  rw [encode, optab_instr_opcode hrow, Row.instr_operand]

/-- Settles O24: a byte is unknown exactly if the lookup finds no row; the count runs the lookup on all 256 bytes. -/
theorem allButTwoOpcodesAreUnknown : Obligations.AllButTwoOpcodesAreUnknown := by
  refine ⟨fun c op operand => ?_, by decide +kernel, by decide⟩
  exact (decode_eq_unknown_iff c op operand).trans (decodeOpcode_eq_none_iff_ne c op)

/-- Settles O25: the row is found on the opcode byte, and gives an instruction of its mode with any operand byte. -/
theorem operandByteNeverDecides : Obligations.OperandByteNeverDecides := by
  intro c op operand operand' i hdecode
  obtain ⟨row, hfound, rfl⟩ := decode_known hdecode
  refine ⟨row.instr operand', decode_of_decodeOpcode_some hfound operand', ?_, Row.instr_operand row operand',
    Instr.wf_eq_true _⟩
  rw [Row.instr_mode, Row.instr_mode]

/-- Settles O26: the decoder evaluated on each of the five words. -/
theorem writtenOutWordsDecode : Obligations.WrittenOutWordsDecode := by
  unfold Obligations.WrittenOutWordsDecode
  decide

end Sys2Proof
end

section
/-! What a step answers at an instruction boundary, one equation per outcome (42_dispatch_loop.md rules R88, R91, R97
and R112, 60_exceptions.md rule R109). -/

namespace Sys2Proof.Machine

open Sys2Proof

/-- At a boundary the engine is to move, and its move is an instruction step. -/
theorem stepWith_boundary (c : Config) {s : State} (hb : AtBoundary s) : stepWith c s = instrStep c s := by
  obtain ⟨hinit, hidle⟩ := hb
  simp [stepWith, State.hostHasControl, hinit, hidle]

/-- Where the budget test fails, the run halts out of budget. -/
theorem stepWith_of_not_mayStart {c : Config} {s : State} (hb : AtBoundary s) (hm : mayStart c s = false) :
    stepWith c s = .next (raiseHalt .outOfBudget s) := by
  rw [stepWith_boundary c hb, instrStep, hm, if_neg Bool.false_ne_true]

/-- Where an instruction starts and the opcode byte is no key, the byte is rejected. -/
theorem stepWith_of_unknown {c : Config} {s : State} (hstart : Starts c s)
    (hnone : decodeOpcode c (s.readByte s.pc) = none) : stepWith c s = .next (rejectOpcode s) := by
  have hdec : s.decoded c = .unknownOpcode (s.readByte s.pc) := decode_of_decodeOpcode_none hnone _
  simp only [stepWith_boundary c hstart.1, instrStep, hstart.2, if_true, hdec]

/-- Everything a step can do at a boundary: halt out of budget, reject the opcode byte, or run the load whose row the
byte selects. -/
theorem stepWith_boundary_cases (c : Config) {s : State} (hb : AtBoundary s) :
    (mayStart c s = false ∧ stepWith c s = .next (raiseHalt .outOfBudget s)) ∨
    (mayStart c s = true ∧ decodeOpcode c (s.readByte s.pc) = none ∧ stepWith c s = .next (rejectOpcode s)) ∨
    (mayStart c s = true ∧ ∃ i row, s.decoded c = .known i ∧ decodeOpcode c (s.readByte s.pc) = some row ∧
      i = row.instr (s.readByte (s.pc + 1)) ∧
      stepWith c s =
        .next (opLda (operandValue i s) (paid i (s.latch (s.readByte s.pc))))) := by
  cases hm : mayStart c s with
  | false => exact .inl ⟨rfl, stepWith_of_not_mayStart hb hm⟩
  | true =>
    cases hd : decodeOpcode c (s.readByte s.pc) with
    | none => exact .inr (.inl ⟨rfl, rfl, stepWith_of_unknown ⟨hb, hm⟩ hd⟩)
    | some row =>
      have hdec : s.decoded c = .known (row.instr (s.readByte (s.pc + 1))) := decode_of_decodeOpcode_some hd _
      refine .inr (.inr ⟨rfl, _, row, hdec, rfl, rfl, ?_⟩)
      rw [stepWith_of_decoded ⟨hb, hm⟩ hdec, exec_eq_opLda]
      cases row.instr (s.readByte (s.pc + 1)) <;> rfl

/-- Settles O27: the two bytes are what the step decodes, and writing `ir` is the latch. -/
theorem stepRunsTheDecodedInstruction : Obligations.StepRunsTheDecodedInstruction :=
  fun _ _ hstart _ hdec => stepWith_of_decoded hstart hdec

/-- Under either policy no instruction starts on an exhausted budget. -/
theorem mayStart_eq_false_of_rem_nonpos (c : Config) {s : State} (hrem : s.rem ≤ 0) : mayStart c s = false := by
  by_contra hm
  have hpos : 0 < s.rem := rem_pos_of_mayStart (Bool.not_eq_false _ ▸ hm)
  omega

/-- Settles O31: no instruction starts on an exhausted budget, so the boundary's step is the halt. -/
theorem exhaustedBudgetHaltsBeforeTheFetch : Obligations.ExhaustedBudgetHaltsBeforeTheFetch := by
  intro c s hb hrem
  rw [stepWith_of_not_mayStart hb (mayStart_eq_false_of_rem_nonpos c hrem), raiseHalt_outOfBudget]

/-- Settles O32: rejecting is the opcode fetch, its latch and the halt's three assignments. -/
theorem unknownOpcodeHaltsPrecisely : Obligations.UnknownOpcodeHaltsPrecisely := by
  intro c s hstart hnone
  rw [stepWith_of_unknown hstart hnone]
  rfl

end Sys2Proof.Machine
end

section
/-! A word placed where the machine fetches (70_reset_and_hazards.md rule R131): both bytes read back, and the budget
placed with them lets the instruction start. -/

namespace Sys2Proof.Machine

open Sys2Proof

@[simp] theorem State.withFetchWord_pc (s : State) (nbits w : Nat) : (s.withFetchWord nbits w).pc = s.pc := rfl

theorem State.readByte_writeByte_same {s : State} (hmem : MemoryInv s) (addr : Addr) (v : Byte) :
    (s.writeByte addr v).readByte addr = v :=
  Memory.read_write_same v hmem

theorem State.readByte_writeByte_other (s : State) {addr addr' : Addr} (hne : addr' ≠ addr) (v : Byte) :
    (s.writeByte addr v).readByte addr' = s.readByte addr' :=
  Memory.read_write_other v (mt BitVec.eq_of_toNat_eq hne) s.mem

/-- The first byte stays when the second is written, since the address after `pc`, wrapped or not, is another. -/
theorem State.withFetchWord_opcode {s : State} (hmem : MemoryInv s) (nbits w : Nat) :
    (s.withFetchWord nbits w).readByte s.pc = (tableBytes nbits w).1 := by
  have hne : s.pc ≠ s.pc + 1 := by bv_omega
  have hread := State.readByte_writeByte_other (s.writeByte s.pc (tableBytes nbits w).1) hne (tableBytes nbits w).2
  exact hread.trans (State.readByte_writeByte_same hmem _ _)

theorem State.withFetchWord_operand {s : State} (hmem : MemoryInv s) (nbits w : Nat) :
    (s.withFetchWord nbits w).readByte (s.pc + 1) = (tableBytes nbits w).2 :=
  State.readByte_writeByte_same (State.wf_writeByte s.pc _ hmem) _ _

theorem State.withFetchWord_starts (s : State) (nbits w : Nat) : Starts Config.chosen (s.withFetchWord nbits w) :=
  ⟨⟨rfl, rfl⟩, (mayStart_overrun rfl _).mpr (by decide : (0 : Int) < placeBudget)⟩

theorem decode_of_decodeTableWord {nbits w : Nat} {i : Instr} (h : decodeTableWord nbits w = some i) :
    decode Config.chosen (tableBytes nbits w).1 (tableBytes nbits w).2 = .known i := by
  unfold decodeTableWord at h
  split at h
  · rename_i j hj
    rw [hj, Option.some.inj h]
  · cases h

/-- Settles O28: the two bytes placed read back, so they are what the step decodes and latches. -/
theorem placedWordRunsNext : Obligations.PlacedWordRunsNext := by
  intro s nbits w i hmem hword
  have hdec : (s.withFetchWord nbits w).decoded Config.chosen = .known i := by
    rw [State.decoded_eq, State.withFetchWord_pc, State.withFetchWord_opcode hmem, State.withFetchWord_operand hmem]
    exact decode_of_decodeTableWord hword
  have hstep := stepWith_of_decoded (s.withFetchWord_starts nbits w) hdec
  rwa [State.withFetchWord_pc, State.withFetchWord_opcode hmem] at hstep

end Sys2Proof.Machine
end

section
/-! The step and the five-state machine are one (42_dispatch_loop.md rules R87 and R102). -/

namespace Sys2Proof.Machine

open Sys2Proof

theorem State.setSeq_self {s : State} {q : Seq} (hq : s.seq = q) : s.setSeq q = s := by
  rw [State.setSeq, ← hq]

theorem ticks_succ (c : Config) (k : Nat) (s : State) : ticks c (k + 1) s = ticks c k (tick c s) := rfl

/-- From a boundary where no instruction starts, the first transition halts and the others do nothing. -/
theorem ticks_of_not_mayStart {c : Config} {s : State} (hidle : s.seq = .idle) (hm : mayStart c s = false) (k : Nat) :
    ticks c (k + 1) s = raiseHalt .outOfBudget s := by
  rw [ticks_succ, tick_idle c hidle, hm, if_neg Bool.false_ne_true, ticks_halted c k (raiseHalt_seq _ _)]

/-- Where an instruction starts, two transitions fetch and latch the opcode. -/
theorem ticks_to_decoding {c : Config} {s : State} (hidle : s.seq = .idle) (hm : mayStart c s = true) (k : Nat) :
    ticks c (k + 2) s = ticks c k ((s.consume.latch (s.readByte s.pc)).setSeq .decoding) := by
  rw [ticks_succ, tick_idle c hidle, if_pos hm, ticks_succ, tick_fetching c (State.setSeq_seq s .fetching)]
  rfl

/-- On a byte that is no key the third transition halts, and the last does nothing. -/
theorem ticks_of_unknown {c : Config} {s : State} (hidle : s.seq = .idle) (hm : mayStart c s = true)
    (hnone : decodeOpcode c (s.readByte s.pc) = none) : ticks c 4 s = rejectOpcode s := by
  rw [ticks_to_decoding hidle hm, ticks_succ, tick_decoding_unknown (State.setSeq_seq _ _) hnone,
    ticks_halted c 1 (raiseHalt_seq _ _)]
  rfl

/-- Once the opcode is fetched, resolving the row's operand from memory and loading it is the load of the row's
instruction. -/
theorem setSeq_idle_opLda_resolve (row : Row) (op : Byte) (q : Seq) (s : State) :
    (opLda (resolve row.mode ((s.consume.latch op).setSeq q)).1
      (resolve row.mode ((s.consume.latch op).setSeq q)).2).setSeq .idle =
    opLda (operandValue (row.instr (s.readByte (s.pc + 1))) s)
      (paid (row.instr (s.readByte (s.pc + 1))) ((s.setSeq .idle).latch op)) := by
  obtain ⟨_, mode, operation, _, _⟩ := row
  cases operation
  cases mode <;> rfl

/-- On a key the last two transitions select the row and run its load. -/
theorem ticks_of_known {c : Config} {s : State} {row : Row} (hidle : s.seq = .idle) (hm : mayStart c s = true)
    (hrow : decodeOpcode c (s.readByte s.pc) = some row) :
    ticks c 4 s =
      opLda (operandValue (row.instr (s.readByte (s.pc + 1))) s)
        (paid (row.instr (s.readByte (s.pc + 1))) (s.latch (s.readByte s.pc))) := by
  rw [ticks_to_decoding hidle hm, ticks_succ, tick_decoding_known (State.setSeq_seq _ _) hrow, ticks_succ,
    tick_executing_known (State.setSeq_seq _ _) hrow]
  have hload := setSeq_idle_opLda_resolve row (s.readByte s.pc) .executing s
  rwa [State.setSeq_self hidle] at hload

/-- At a boundary the instruction step is the four transitions of `Idle`, `Fetching`, `Decoding` and `Executing`, of
which a halt leaves the rest without effect. -/
theorem stepWith_boundary_eq_ticks (c : Config) {s : State} (hb : AtBoundary s) : stepWith c s = .next (ticks c 4 s) := by
  obtain ⟨hm, hstep⟩ | ⟨hm, hnone, hstep⟩ | ⟨hm, i, row, -, hrow, rfl, hstep⟩ := stepWith_boundary_cases c hb
  · rw [hstep, ticks_of_not_mayStart hb.2 hm]
  · rw [hstep, ticks_of_unknown hb.2 hm hnone]
  · rw [hstep, ticks_of_known hb.2 hm hrow]

/-- Settles O30: at a boundary the two machines agree, and inside an instruction the step is defined as the
transitions. -/
theorem stepEqualsTheFiveStateMachine : Obligations.StepEqualsTheFiveStateMachine := by
  intro c s hturn
  have hcontrol : s.hostHasControl = false := (hostHasControl_false_iff s).mpr hturn
  cases hq : s.seq with
  | idle => exact stepWith_boundary_eq_ticks c ⟨hturn.1, hq⟩
  | halted => exact absurd hq hturn.2
  | fetching | decoding | executing => simp [stepWith, hcontrol, hq]

end Sys2Proof.Machine
end

section
/-! What every step keeps, by the transitions of the sequencer and the host's three commands (10_state.md rule R28,
60_exceptions.md rules R107 and R110). -/

namespace Sys2Proof.Machine

open Sys2Proof

/-- A property of a state holds after a step if every transition of the sequencer keeps it and each of the host's
commands, taken in that state, establishes it. -/
theorem stepWith_keeps {c : Config} {P : State → Prop} {s t : State} (hstep : stepWith c s = .next t) (hs : P s)
    (hreset : s.hostHasControl = true → s.commands.head? = some .reset → P (resetAction s.dequeue))
    (hexecute : ∀ budget, P (startRun budget s.dequeue))
    (hwrite : ∀ addr v, P (s.dequeue.writeByte addr v))
    (htick : ∀ s', P s' → P (tick c s')) : P t := by
  cases hcontrol : s.hostHasControl with
  | true =>
    rw [stepWith_of_hostHasControl c hcontrol] at hstep
    obtain ⟨-, rfl⟩ | ⟨hhead, rfl⟩ | ⟨budget, -, -, rfl⟩ | ⟨addr, v, -, rfl⟩ := hostTurn_cases hstep
    · exact hs
    · exact hreset hcontrol hhead
    · exact hexecute budget
    · exact hwrite addr v
  | false =>
    rw [stepEqualsTheFiveStateMachine c s ((hostHasControl_false_iff s).mp hcontrol)] at hstep
    cases hstep
    exact ticks_induction htick s.seq.ticksLeft s hs

/-- `t` differs from `s` at most in what the engine writes: the accumulator, `pc`, `rem`, two flags, the sequencer's
registers and the stream. -/
def EngineFrame (s t : State) : Prop :=
  t.x = s.x ∧ t.y = s.y ∧ t.sp = s.sp ∧ t.flags.c = s.flags.c ∧ t.flags.i = s.flags.i ∧ t.flags.d = s.flags.d ∧
    t.flags.b = s.flags.b ∧ t.flags.v = s.flags.v ∧ t.mem = s.mem ∧ t.commands = s.commands ∧
    t.initialised = s.initialised

theorem EngineFrame.refl (s : State) : EngineFrame s s := ⟨rfl, rfl, rfl, rfl, rfl, rfl, rfl, rfl, rfl, rfl, rfl⟩

/-- Whatever the mode, resolving an operand writes `pc` and `rem` only. -/
theorem resolve_snd (m : Mode) (s : State) : ∃ pc rem, (resolve m s).2 = { s with pc := pc, rem := rem } := by
  cases m <;> exact ⟨_, _, rfl⟩

/-- What a transition writes: `pc`, `rem`, the sequencer's registers and the stream; and one that loads, the
accumulator with its two flags (R69). -/
theorem tick_writes (c : Config) (s : State) :
    (∃ pc rem seq cause ir diag,
      tick c s = { s with pc := pc, rem := rem, seq := seq, cause := cause, ir := ir, diag := diag }) ∨
    ∃ v pc rem, tick c s = { opLda v s with pc := pc, rem := rem, seq := .idle } := by
  obtain ⟨-, -, heq⟩ | ⟨-, -, heq⟩ | ⟨-, heq⟩ | ⟨-, heq⟩ | ⟨-, -, heq⟩ | ⟨-, row, -, heq⟩ | ⟨-, heq⟩ := tick_cases c s
  case inr.inr.inr.inr.inr.inl =>
    obtain ⟨pc, rem, hresolve⟩ := resolve_snd row.mode s
    exact .inr ⟨_, pc, rem, by rw [heq, hresolve]; rfl⟩
  all_goals exact .inl ⟨_, _, _, _, _, _, heq⟩

theorem EngineFrame.tick {s s' : State} (c : Config) (h : EngineFrame s s') : EngineFrame s (tick c s') := by
  obtain ⟨_, _, _, _, _, _, heq⟩ | ⟨_, _, _, heq⟩ := tick_writes c s'
  · rw [heq]
    exact h
  · rw [heq]
    exact h

/-- A load sets the negative flag to bit 7 of the accumulator, and no other transition writes either. -/
theorem tick_n_eq_msb {s : State} (c : Config) (h : s.flags.n = s.a.msb) : (tick c s).flags.n = (tick c s).a.msb := by
  obtain ⟨_, _, _, _, _, _, heq⟩ | ⟨_, _, _, heq⟩ := tick_writes c s
  · rw [heq]
    exact h
  · rw [heq]
    rfl

/-- A load sets the zero flag by the accumulator, and no other transition writes either. -/
theorem tick_zeroFlagTracksA {s : State} (c : Config) (h : ZeroFlagTracksA s) : ZeroFlagTracksA (tick c s) := by
  obtain ⟨_, _, _, _, _, _, heq⟩ | ⟨_, _, _, heq⟩ := tick_writes c s
  · rw [heq]
    exact h
  · rw [heq]
    rfl

theorem tick_registersInv {s : State} (c : Config) (h : RegistersInv s) : RegistersInv (tick c s) := by
  obtain ⟨hx, hy, hsp, hc, hi, hd, hb, hv, hn⟩ := h
  obtain ⟨ex, ey, esp, ec, ei, ed, eb, ev, -⟩ := (EngineFrame.refl s).tick c
  exact ⟨ex.trans hx, ey.trans hy, esp.trans hsp, ec.trans hc, ei.trans hi, ed.trans hd, eb.trans hb, ev.trans hv,
    tick_n_eq_msb c hn⟩

theorem tick_mem (c : Config) (s : State) : (tick c s).mem = s.mem := by
  obtain ⟨-, -, -, -, -, -, -, -, hmem, -, -⟩ := (EngineFrame.refl s).tick c
  exact hmem

/-- Settles O38: `Reset` establishes the invariant, the other commands write none of its registers, and a transition
writes only the accumulator and the negative flag of them, together. -/
theorem stepKeepsRegistersInvariant : Obligations.StepKeepsRegistersInvariant := by
  intro s t hs hstep
  refine stepWith_keeps hstep hs (fun _ _ => ?reset) (fun _ => hs) (fun _ _ => hs) (fun _ => tick_registersInv _)
  case reset => exact ⟨rfl, rfl, rfl, rfl, rfl, rfl, rfl, rfl, BitVec.msb_zero.symm⟩

/-- Settles O39: no transition writes memory, `Reset` empties the list, and the loader's write keeps the form. -/
theorem stepKeepsMemoryCanonical : Obligations.StepKeepsMemoryCanonical := by
  intro s t hs hstep
  refine stepWith_keeps hstep hs (fun _ _ => Memory.wf_init) (fun _ => hs)
    (fun addr v => State.wf_writeByte (s := s.dequeue) addr v hs) (fun s' hs' => ?tick)
  case tick => rwa [MemoryInv, tick_mem]

/-- The two properties of the halt's registers that a step keeps together. -/
def HaltRecord (c : Config) (s : State) : Prop :=
  CauseInv s ∧ UnknownOpcodeRecord c s

theorem HaltRecord.of_cause_none {c : Config} {s : State} (hcause : s.cause = .none) : HaltRecord c s := by
  simp [HaltRecord, CauseInv, UnknownOpcodeRecord, hcause]

/-- A run that goes on has no cause, so its transitions may write the latch. -/
theorem HaltRecord.cause_eq_none {c : Config} {s : State} (h : HaltRecord c s) (hrunning : s.seq ≠ .halted) :
    s.cause = .none :=
  h.1.1 hrunning

theorem HaltRecord.raiseHalt_outOfBudget (c : Config) (s : State) : HaltRecord c (raiseHalt .outOfBudget s) := by
  simp [HaltRecord, CauseInv, UnknownOpcodeRecord]

/-- The halt on an unknown opcode records the byte in the latch. -/
theorem HaltRecord.raiseHalt_unknownOpcode {c : Config} {s : State} (hnone : decodeOpcode c s.ir = none) :
    HaltRecord c (raiseHalt (.unknownOpcode s.ir) s) := by
  simp [HaltRecord, CauseInv, UnknownOpcodeRecord, hnone]

/-- Every transition keeps the record: a halt makes it anew, and what runs on has no cause. -/
theorem HaltRecord.tick {c : Config} {s : State} (h : HaltRecord c s) : HaltRecord c (tick c s) := by
  obtain ⟨hq, -, heq⟩ | ⟨-, -, heq⟩ | ⟨hq, heq⟩ | ⟨hq, heq⟩ | ⟨-, hnone, heq⟩ | ⟨hq, row, -, heq⟩ | ⟨-, heq⟩ :=
    tick_cases c s
  · exact .of_cause_none (heq ▸ h.cause_eq_none (by simp [hq]))
  · exact heq ▸ raiseHalt_outOfBudget c s
  · exact .of_cause_none (heq ▸ h.cause_eq_none (by simp [hq]))
  · exact .of_cause_none (heq ▸ h.cause_eq_none (by simp [hq]))
  · exact heq ▸ raiseHalt_unknownOpcode hnone
  · obtain ⟨pc, rem, hresolve⟩ := resolve_snd row.mode s
    exact .of_cause_none (by rw [heq, hresolve]; exact h.cause_eq_none (by simp [hq]))
  · exact heq.symm ▸ h

/-- Settles O40: the host's commands clear the cause or write memory only, and the engine moves by transitions. -/
theorem stepKeepsHaltRecord : Obligations.StepKeepsHaltRecord := by
  intro s t hcause hrecord hstep
  have hs : HaltRecord Config.chosen s := ⟨hcause, hrecord⟩
  exact stepWith_keeps hstep hs (fun _ _ => .of_cause_none rfl) (fun _ => .of_cause_none rfl) (fun _ _ => hs)
    (fun _ => HaltRecord.tick)

/-- Settles O42: a load sets the zero flag by the accumulator it loads; the host's commands other than `Reset` write
neither. -/
theorem zeroFlagTracksAccumulatorAfterALoad : Obligations.ZeroFlagTracksAccumulatorAfterALoad := by
  refine ⟨fun i s => ⟨_, exec_eq_opLda i s, rfl⟩, fun s t hs hnoreset hstep => ?_⟩
  exact stepWith_keeps hstep hs (fun hcontrol hreset => absurd hreset (hnoreset hcontrol)) (fun _ => hs) (fun _ _ => hs)
    (fun _ => tick_zeroFlagTracksA _)

/-- Settles O44: the engine's move is a number of transitions, each of which keeps the frame. -/
theorem engineLeavesTheRestUnchanged : Obligations.EngineLeavesTheRestUnchanged := by
  intro c s hturn
  obtain ⟨hx, hy, hsp, hc, hi, hd, hb, hv, hmem, hcommands, hinit⟩ :=
    ticks_induction (fun _ h => EngineFrame.tick c h) s.seq.ticksLeft s (EngineFrame.refl s)
  exact ⟨_, stepEqualsTheFiveStateMachine c s hturn, hx, hy, hsp, hc, hi, hd, hb, hv, hmem, hcommands,
    hinit.trans hturn.1⟩

/-- After a reset no command of the host is refused. -/
theorem hostTurn_of_initialised {s : State} (hinit : s.initialised = true) :
    ∃ t, hostTurn s = .next t ∧ t.initialised = true := by
  cases hcommands : s.commands with
  | nil => exact ⟨s, hostTurn_no_command hcommands, hinit⟩
  | cons command rest =>
    cases command with
    | reset => exact ⟨_, hostTurn_reset (by rw [hcommands, List.head?_cons]), rfl⟩
    | execute budget => exact ⟨startRun budget s.dequeue, by simp [hostTurn, hcommands, hinit], hinit⟩
    | write addr v => exact ⟨s.dequeue.writeByte addr v, by simp [hostTurn, hcommands], hinit⟩

/-- Settles O43: the host's turn and the engine's each answer a next state, with the mark of the reset as it was or
set. -/
theorem resetInstanceNeverStops : Obligations.ResetInstanceNeverStops := by
  intro s hinit
  cases hcontrol : s.hostHasControl with
  | true =>
    obtain ⟨t, hturn, ht⟩ := hostTurn_of_initialised hinit
    exact ⟨t, (stepWith_of_hostHasControl _ hcontrol).trans hturn, ht⟩
  | false =>
    obtain ⟨t, hstep, -, -, -, -, -, -, -, -, -, -, ht⟩ :=
      engineLeavesTheRestUnchanged Config.chosen s ((hostHasControl_false_iff s).mp hcontrol)
    exact ⟨t, hstep, ht⟩

/-- Against `s`, the state `t` is an `UnknownOpcode` halt with one event more, the byte in the latch; or it has the
same stream and no new such cause (R110). -/
def OneEventAtMost (s t : State) : Prop :=
  (t.seq = .halted ∧ t.cause = .unknownOpcode ∧ t.diag = s.diag ++ [t.ir]) ∨
    (t.diag = s.diag ∧ (t.cause = .unknownOpcode → s.cause = .unknownOpcode))

theorem OneEventAtMost.refl (s : State) : OneEventAtMost s s := .inr ⟨rfl, id⟩

/-- After the event the sequencer is halted and has no transition; before it, only the halt on an unknown opcode
emits. -/
theorem OneEventAtMost.tick {c : Config} {s s' : State} (h : OneEventAtMost s s') : OneEventAtMost s (tick c s') := by
  obtain ⟨hhalted, hevent⟩ | ⟨hdiag, hcause⟩ := h
  · rw [tick_halted c hhalted]
    exact .inl ⟨hhalted, hevent⟩
  · obtain ⟨-, -, heq⟩ | ⟨-, -, heq⟩ | ⟨-, heq⟩ | ⟨-, heq⟩ | ⟨-, -, heq⟩ | ⟨-, row, -, heq⟩ | ⟨-, heq⟩ := tick_cases c s'
    · exact .inr (heq ▸ ⟨hdiag, hcause⟩)
    · exact .inr (by simp [heq, hdiag])
    · exact .inr (heq ▸ ⟨hdiag, hcause⟩)
    · exact .inr (heq ▸ ⟨hdiag, hcause⟩)
    · exact .inl (by simp [heq, hdiag])
    · obtain ⟨pc, rem, hresolve⟩ := resolve_snd row.mode s'
      exact .inr (by rw [heq, hresolve]; exact ⟨hdiag, hcause⟩)
    · exact .inr (by rw [heq]; exact ⟨hdiag, hcause⟩)

/-- Settles O46: the host's commands emit nothing and record no such cause, and the engine moves by transitions. -/
theorem oneDiagnosticPerUnknownOpcode : Obligations.OneDiagnosticPerUnknownOpcode := by
  intro s t hstep
  have hs : OneEventAtMost s s := .refl s
  exact stepWith_keeps hstep hs (fun _ _ => .inr ⟨rfl, nofun⟩) (fun _ => .inr ⟨rfl, nofun⟩) (fun _ _ => hs)
    (fun _ => OneEventAtMost.tick)

end Sys2Proof.Machine
end

section
/-! The host's other commands, and its reads (10_state.md rules R25 to R27, 20_memory.md rules R33 and R34,
42_dispatch_loop.md rule R86). -/

namespace Sys2Proof.Machine

open Sys2Proof

/-- Settles O2: the sequencer's registers of the reset action's state. -/
theorem resetCommandHaltsTheSequencer : Obligations.ResetCommandHaltsTheSequencer :=
  fun s hcontrol hreset => ⟨resetAction s.dequeue, step_reset hcontrol hreset, resetAction_seq _, resetAction_rem _,
    resetAction_cause _, resetAction_ir _, resetAction_diag _, resetAction_commands _, resetAction_initialised _⟩

/-- Settles O3: the constant's fields, and a memory that lists no cell reads as cleared everywhere. -/
theorem stateAfterResetIsTheTable : Obligations.StateAfterResetIsTheTable :=
  ⟨rfl, rfl, rfl, rfl, rfl, rfl, fun _ => rfl, rfl, rfl, rfl, rfl, rfl, rfl, rfl⟩

theorem hostTurn_execute {s : State} {budget : Int} (hexecute : s.commands.head? = some (.execute budget)) :
    hostTurn s = if s.initialised then .next (startRun budget s.dequeue) else .refused .neverReset := by
  obtain ⟨rest, hcommands⟩ := List.head?_eq_some_iff.mp hexecute
  simp only [hostTurn, hcommands]

theorem hostTurn_write {s : State} {addr : Addr} {v : Byte} (hwrite : s.commands.head? = some (.write addr v)) :
    hostTurn s = .next (s.dequeue.writeByte addr v) := by
  obtain ⟨rest, hcommands⟩ := List.head?_eq_some_iff.mp hwrite
  simp only [hostTurn, hcommands]

/-- Settles O4: `startRun` after taking the command is the three assignments of R86. -/
theorem executeStartsARun : Obligations.ExecuteStartsARun := by
  intro s budget hinit hhalted hexecute
  rw [step, stepWith_halted _ hhalted, hostTurn_execute hexecute, if_pos hinit]
  rfl

/-- Settles O5: before the first reset the host has control, and its `Execute` is refused. -/
theorem executeBeforeResetIsRefused : Obligations.ExecuteBeforeResetIsRefused := by
  intro s budget hinit hexecute
  have hcontrol : s.hostHasControl = true := by simp [State.hostHasControl, hinit]
  rw [step, stepWith_of_hostHasControl _ hcontrol, hostTurn_execute hexecute, hinit, if_neg Bool.false_ne_true]

/-- Settles O6: the step is the one write, which the canonical memory reads back and which leaves the other cells
alone. -/
theorem loaderWriteStoresOneByte : Obligations.LoaderWriteStoresOneByte := by
  intro s addr v hmem hcontrol hwrite
  refine ⟨s.dequeue.writeByte addr v, (stepWith_of_hostHasControl _ hcontrol).trans (hostTurn_write hwrite), ?_,
    fun b hb => Memory.read_write_other v hb s.mem, rfl⟩
  exact State.readByte_writeByte_same (s := s.dequeue) hmem addr v

theorem State.observe_isSome_iff (s : State) : s.observe.isSome = true ↔ s.initialised = true ∧ s.seq = .halted := by
  simp [State.observe]

/-- Settles O8: both reads have the one guard, and the answer is a copy of the fields. -/
theorem hostObservesHaltedStatesOnly : Obligations.HostObservesHaltedStatesOnly := by
  refine fun s addr => ⟨⟨s.observe_isSome_iff, ?cell⟩, fun o ho => ?fields⟩
  case cell => simp only [State.observeCell, State.observe_isSome_iff, Bool.and_eq_true, beq_iff_eq]
  case fields =>
    obtain ⟨-, hcopy⟩ := Option.ite_none_right_eq_some.mp ho
    obtain rfl := Option.some.inj hcopy
    exact ⟨rfl, rfl, rfl, rfl, rfl, rfl, rfl, rfl⟩

theorem Memory.readChecked_of_lt (m : Memory) {a : Nat} (ha : a < Config.memCells) :
    Memory.readChecked m a = .ok (Memory.read m a) :=
  if_pos ha

/-- Settles O14: both accesses have the one range test, and every 16-bit address passes it. -/
theorem onlyOutOfRangeAccessFaults : Obligations.OnlyOutOfRangeAccessFaults := by
  refine ⟨fun m a v => ⟨fun hlt => ?inside, fun hge => ?outside⟩, fun s zp => ?engine⟩
  case inside => exact ⟨Memory.readChecked_of_lt m hlt, if_pos hlt⟩
  case outside => exact ⟨if_neg (Nat.not_lt.mpr hge), if_neg (Nat.not_lt.mpr hge)⟩
  case engine =>
    exact ⟨Memory.readChecked_of_lt s.mem (Addr.lt_memCells s.pc),
      Memory.readChecked_of_lt s.mem (Addr.lt_memCells (zeroPageAddr zp))⟩

/-- Settles O41: each invariant evaluated on the constant. -/
theorem resetMeetsTheInvariants : Obligations.ResetMeetsTheInvariants := by
  unfold Obligations.ResetMeetsTheInvariants
  decide

end Sys2Proof.Machine
end

section
/-! What the loads read, and what they leave alone (41_load_accumulator.md, 10_state.md rules R11, R15 and R17). -/

namespace Sys2Proof.Machine

open Sys2Proof

/-- Paying for an instruction writes `pc` and `rem` only. -/
theorem paid_frame (i : Instr) (s : State) : paid i s = { s with pc := (paid i s).pc, rem := (paid i s).rem } := by
  cases i <;> rfl

theorem paid_pc_eq (i : Instr) (s : State) : (paid i s).pc = s.pc + 2 := by
  rw [paid_pc, State.consume_consume]

/-- The cost of a load: two cycles, or three with the dereference (R71). -/
theorem paid_rem_eq (i : Instr) (s : State) : (paid i s).rem = s.rem - 2 ∨ (paid i s).rem = s.rem - 3 := by
  cases i with
  | ldaImm imm => exact .inl (by rw [paid_ldaImm])
  | ldaZp zp => exact .inr (by rw [paid_ldaZp])

/-- The cost is the instruction's, whatever the state. -/
theorem paid_rem_congr (i : Instr) {s s' : State} (hrem : s'.rem = s.rem) : (paid i s').rem = (paid i s).rem := by
  cases i with
  | ldaImm imm => rw [paid_ldaImm, paid_ldaImm, hrem]
  | ldaZp zp => rw [paid_ldaZp, paid_ldaZp, hrem]

/-- The operand value is the instruction's own byte or a cell of memory. -/
theorem operandValue_congr (i : Instr) {s s' : State} (hmem : s'.mem = s.mem) : operandValue i s' = operandValue i s := by
  cases i with
  | ldaImm imm => rfl
  | ldaZp zp => rw [operandValue_ldaZp, operandValue_ldaZp, State.readByte, State.readByte, hmem]

/-- Settles O18: `pc` and `rem` are paid, and the shared operation writes the accumulator and two flags. -/
theorem loadsLeaveTheRestUnchanged : Obligations.LoadsLeaveTheRestUnchanged := by
  intro i s
  refine ⟨_, exec_eq_opLda i s, ?_⟩
  rw [paid_frame]
  exact ⟨rfl, rfl, rfl, rfl, rfl, rfl, rfl, rfl, rfl, rfl, rfl, rfl, rfl, rfl, fun _ => rfl⟩

/-- Settles O20: the value loaded is read from memory, the flags follow the value, and the cost is the instruction's. -/
theorem loadsIgnoreOldRegistersAndFlags : Obligations.LoadsIgnoreOldRegistersAndFlags := by
  intro i s s' hmem hpc hrem
  have hvalue := operandValue_congr i hmem
  refine ⟨_, _, exec_eq_opLda i s, exec_eq_opLda i s', hvalue, ?z, ?n, ?pc, paid_rem_congr i hrem⟩
  case z => rw [opLda_flags, opLda_flags, hvalue]
  case n => rw [opLda_flags, opLda_flags, hvalue]
  case pc => rw [opLda_pc, opLda_pc, paid_pc_eq, paid_pc_eq, hpc]

/-- Settles O17: the operand values are the same byte, and the dereference is one cycle more to pay (R68). -/
theorem loadsDifferInResolvingOnly : Obligations.LoadsDifferInResolvingOnly := by
  rintro imm zp s rfl
  exact ⟨_, exec_eq_opLda (.ldaImm _) s, exec_eq_opLda (.ldaZp zp) s⟩

end Sys2Proof.Machine
end

section
/-! The budget: read at a boundary only, overdrawn by at most two, and the end of every run (42_dispatch_loop.md rules
R94 to R98). -/

namespace Sys2Proof.Machine

open Sys2Proof

/-- In a state no run reaches, the load's transition is the decode failure (log 15). -/
theorem tick_executing_unknown {c : Config} {s : State} (hexecuting : s.seq = .executing)
    (hnone : decodeOpcode c s.ir = none) : tick c s = raiseHalt (.unknownOpcode s.ir) s := by
  simp only [tick, hexecuting, tickExecuting, hnone]

/-- `s` with `k` more cycles of budget. -/
def State.addRem (s : State) (k : Int) : State :=
  { s with rem := s.rem + k }

theorem State.addRem_consume (s : State) (k : Int) : (s.addRem k).consume = s.consume.addRem k := by
  simp only [State.addRem, State.consume, Int.sub_eq_add_neg, Int.add_right_comm]

theorem State.addRem_spendCycle (s : State) (k : Int) : (s.addRem k).spendCycle = s.spendCycle.addRem k := by
  simp only [State.addRem, State.spendCycle, Int.sub_eq_add_neg, Int.add_right_comm]

theorem resolve_addRem_fst (m : Mode) (s : State) (k : Int) : (resolve m (s.addRem k)).1 = (resolve m s).1 := by
  cases m <;> rfl

theorem resolve_addRem_snd (m : Mode) (s : State) (k : Int) :
    (resolve m (s.addRem k)).2 = (resolve m s).2.addRem k := by
  cases m with
  | immediate => exact s.addRem_consume k
  | zeroPage => exact (congrArg State.spendCycle (s.addRem_consume k)).trans (s.consume.addRem_spendCycle k)

/-- Settles O33: a fetch and a dereference subtract from `rem`, which commutes with the shift, and nothing else
outside `Idle` touches it. -/
theorem budgetIsNotReadInsideAnInstruction : Obligations.BudgetIsNotReadInsideAnInstruction := by
  intro c s k hseq
  change tick c (s.addRem k) = (tick c s).addRem k
  cases hq : s.seq with
  | idle => exact absurd hq hseq
  | halted => rw [tick_halted c hq, tick_halted c (s := s.addRem k) hq]
  | fetching =>
    rw [tick_fetching c hq, tick_fetching c (s := s.addRem k) hq, State.addRem_consume]
    rfl
  | decoding =>
    cases hrow : decodeOpcode c s.ir with
    | none =>
      rw [tick_decoding_unknown hq hrow, tick_decoding_unknown (s := s.addRem k) hq hrow]
      rfl
    | some row =>
      rw [tick_decoding_known hq hrow, tick_decoding_known (s := s.addRem k) hq hrow]
      rfl
  | executing =>
    cases hrow : decodeOpcode c s.ir with
    | none =>
      rw [tick_executing_unknown hq hrow, tick_executing_unknown (s := s.addRem k) hq hrow]
      rfl
    | some row =>
      rw [tick_executing_known hq hrow, tick_executing_known (s := s.addRem k) hq hrow, resolve_addRem_fst,
        resolve_addRem_snd]
      rfl

/-- What a boundary's step does to the budget and the sequencer: with no instruction started it halts and `rem` stays;
from a positive budget it halts on an unknown opcode one cycle lower, or completes a load two or three lower. -/
theorem stepWith_boundary_outcome (c : Config) {s : State} (hb : AtBoundary s) :
    ∃ t, stepWith c s = .next t ∧
      ((mayStart c s = false ∧ t = raiseHalt .outOfBudget s) ∨
       (0 < s.rem ∧ t = rejectOpcode s) ∨
       (0 < s.rem ∧ t.pc = s.pc + 2 ∧ (t.rem = s.rem - 2 ∨ t.rem = s.rem - 3) ∧ AtBoundary t ∧ t.cause = s.cause)) := by
  obtain ⟨hm, hstep⟩ | ⟨hm, -, hstep⟩ | ⟨hm, i, row, -, -, -, hstep⟩ := stepWith_boundary_cases c hb
  · exact ⟨_, hstep, .inl ⟨hm, rfl⟩⟩
  · exact ⟨_, hstep, .inr (.inl ⟨rem_pos_of_mayStart hm, rfl⟩)⟩
  · refine ⟨_, hstep, .inr (.inr ⟨rem_pos_of_mayStart hm, paid_pc_eq i _, paid_rem_eq i _, ?_⟩)⟩
    rw [paid_frame]
    exact ⟨hb, rfl⟩

theorem rejectOpcode_rem (s : State) : (rejectOpcode s).rem = s.rem - 1 := rfl

/-- Settles O34: under `overrun` a positive budget starts the instruction, and no outcome costs more than three
cycles. -/
theorem overrunOverdrawsByAtMostTwo : Obligations.OverrunOverdrawsByAtMostTwo := by
  intro c s hpolicy hb hpos
  obtain ⟨t, hstep, ⟨hm, -⟩ | ⟨-, rfl⟩ | ⟨-, -, hrem, -⟩⟩ := stepWith_boundary_outcome c hb
  · exact absurd ((mayStart_overrun hpolicy s).mpr hpos) (by simp [hm])
  · exact ⟨_, hstep, by rw [rejectOpcode_rem]; omega, by rw [rejectOpcode_rem]; omega⟩
  · exact ⟨t, hstep, by omega, by omega⟩

/-- Under `defer` an instruction starts on a positive budget that pays for it, where it is known (R96). -/
theorem mayStart_defer {c : Config} (hpolicy : c.policy = .defer) (s : State) :
    mayStart c s = true ↔
      0 < s.rem ∧ ∀ row, decodeOpcode c (s.readByte s.pc) = some row → (row.cycles : Int) ≤ s.rem := by
  cases hrow : decodeOpcode c (s.readByte s.pc) <;> simp [mayStart, hpolicy, hrow]

/-- Settles O35: an unaffordable instruction fails the budget test, and one that passes it costs its row's cycles. -/
theorem deferNeverOverdraws : Obligations.DeferNeverOverdraws := by
  intro c s hpolicy hb hrem
  refine ⟨fun row hrow hdear => ?unaffordable, ?_⟩
  case unaffordable =>
    have hm : mayStart c s = false := by
      rw [← Bool.not_eq_true, mayStart_defer hpolicy]
      exact fun h => absurd (h.2 row hrow) (Int.not_le.mpr hdear)
    rw [stepWith_of_not_mayStart hb hm, raiseHalt_outOfBudget]
  obtain ⟨-, hstep⟩ | ⟨hm, -, hstep⟩ | ⟨hm, i, row, -, hrow, rfl, hstep⟩ := stepWith_boundary_cases c hb
  · exact ⟨_, hstep, hrem⟩
  · have hpos := rem_pos_of_mayStart hm
    exact ⟨_, hstep, by rw [rejectOpcode_rem]; omega⟩
  · have hpaid : (row.cycles : Int) ≤ s.rem := ((mayStart_defer hpolicy s).mp hm).2 row hrow
    refine ⟨_, hstep, ?_⟩
    rw [opLda_rem, paid_rem (decodeOpcode_some hrow).1 (Row.instr_mode row _).symm, State.latch_rem]
    omega

/-- The two policies differ in the budget test only. -/
theorem instrStep_policy_congr {c : Config} {s : State} {p q : BudgetPolicy}
    (hm : mayStart { c with policy := p } s = mayStart { c with policy := q } s) :
    instrStep { c with policy := p } s = instrStep { c with policy := q } s := by
  rw [instrStep, instrStep, hm]
  rfl

/-- Settles O36: where the budget pays for a known instruction, the second half of the test of `defer` always passes. -/
theorem policiesAgreeOnPaidInstructions : Obligations.PoliciesAgreeOnPaidInstructions := by
  intro c s hb hpaid
  rw [stepWith_boundary _ hb, stepWith_boundary _ hb]
  refine instrStep_policy_congr (Bool.eq_iff_iff.mpr ?_)
  rw [mayStart_overrun rfl, mayStart_defer rfl]
  exact ⟨fun hpos => ⟨hpos, fun row hrow => hpaid row hrow hpos⟩, And.left⟩

/-- Within `k` steps `s` halts for one of the two reasons; out of budget only with the budget used up, and overdrawn
by at most two where it was not below that already. -/
def HaltsWithin (k : Nat) (s : State) : Prop :=
  ∃ j t, j ≤ k ∧ Host.Core.run core j s = .next t ∧ t.seq = .halted ∧
    (t.cause = .outOfBudget ∨ t.cause = .unknownOpcode) ∧
    (t.cause = .outOfBudget → -2 ≤ s.rem → -2 ≤ t.rem ∧ t.rem ≤ 0)

theorem run_succ {s t : State} (hstep : step s = .next t) (k : Nat) :
    Host.Core.run core (k + 1) s = Host.Core.run core k t := by
  have hcore : core.step s = .next t := hstep
  simp only [Host.Core.run, hcore]

theorem HaltsWithin.of_outOfBudget {s : State} (hstep : step s = .next (raiseHalt .outOfBudget s)) (hrem : s.rem ≤ 0) :
    HaltsWithin 1 s :=
  ⟨1, _, le_rfl, run_succ hstep 0, rfl, .inl rfl, fun _ hlow => ⟨hlow, hrem⟩⟩

theorem HaltsWithin.of_rejected {s : State} (hstep : step s = .next (rejectOpcode s)) : HaltsWithin 1 s :=
  ⟨1, _, le_rfl, run_succ hstep 0, rfl, .inr rfl, nofun⟩

theorem HaltsWithin.mono {j k : Nat} {s : State} (hjk : j ≤ k) : HaltsWithin j s → HaltsWithin k s
  | ⟨i, t, hi, h⟩ => ⟨i, t, hi.trans hjk, h⟩

theorem HaltsWithin.of_step {k : Nat} {s t : State} (hstep : step s = .next t) (hlow : -2 ≤ t.rem)
    (h : HaltsWithin k t) : HaltsWithin (k + 1) s := by
  obtain ⟨j, u, hj, hrun, hhalted, hcause, hrem⟩ := h
  exact ⟨j + 1, u, Nat.succ_le_succ hj, (run_succ hstep j).trans hrun, hhalted, hcause, fun hout _ => hrem hout hlow⟩

/-- By induction on the budget: an instruction costs at least two cycles, so each one leaves one fewer within the
bound. -/
theorem haltsWithin_of_rem_le (n : Nat) :
    ∀ {s : State}, AtBoundary s → s.rem ≤ n → HaltsWithin ((n + 1) / 2 + 1) s := by
  induction n using Nat.strong_induction_on with
  | _ n ih =>
    intro s hb hn
    obtain ⟨t, hstep, ⟨hm, rfl⟩ | ⟨-, rfl⟩ | ⟨hpos, -, hcost, ht, -⟩⟩ := stepWith_boundary_outcome Config.chosen hb
    · have hrem : s.rem ≤ 0 := by
        rw [mayStart_overrun_eq rfl] at hm
        exact Int.not_lt.mp (of_decide_eq_false hm)
      exact (HaltsWithin.of_outOfBudget hstep hrem).mono (by omega)
    · exact (HaltsWithin.of_rejected hstep).mono (by omega)
    · exact ((ih (n - 2) (by omega) ht (by omega)).of_step hstep (by omega)).mono (by omega)

/-- Settles O37: the bound by induction on the budget, and a positive one lies above the range in which it ends. -/
theorem everyRunHalts : Obligations.EveryRunHalts := by
  intro s hb
  obtain ⟨k, t, hk, hrun, hhalted, hcause, hrem⟩ := haltsWithin_of_rem_le s.rem.toNat hb (Int.self_le_toNat _)
  exact ⟨k, t, hk, hrun, hhalted, hcause, fun hout hpos => hrem hout (by omega)⟩

end Sys2Proof.Machine
end

section
/-! Which moves write `pc`, and two registers that no outcome depends on: the stream and, at a boundary, the latch
(10_state.md rules R13, R22 and R23, 60_exceptions.md rule R116). -/

namespace Sys2Proof.Machine

open Sys2Proof

/-- The host's commands other than `Reset` leave `pc` alone. -/
theorem hostTurn_pc {s t : State} (hnoreset : NoResetNext s) (hturn : hostTurn s = .next t) : t.pc = s.pc := by
  obtain ⟨-, rfl⟩ | ⟨hreset, -⟩ | ⟨_, -, -, rfl⟩ | ⟨_, _, -, rfl⟩ := hostTurn_cases hturn
  · rfl
  · exact absurd hreset hnoreset
  · rfl
  · rfl

/-- Settles O45: the three outcomes of a boundary, with what each writes. -/
theorem pcMovesByFetchesOnly : Obligations.PcMovesByFetchesOnly := by
  refine ⟨fun c s hb => ?boundary, fun s t hcontrol hnoreset hstep => ?host⟩
  case boundary =>
    obtain ⟨t, hstep, ⟨-, rfl⟩ | ⟨-, rfl⟩ | ⟨-, hpc, hrem, ht, hcause⟩⟩ := stepWith_boundary_outcome c hb
    · exact ⟨_, hstep, .inl ⟨rfl, rfl, rfl, rfl, rfl, rfl⟩⟩
    · exact ⟨_, hstep, .inr (.inl ⟨rfl, rfl, rfl, rfl, rfl, rfl⟩)⟩
    · exact ⟨t, hstep, .inr (.inr ⟨hpc, hrem, ht.2, hcause⟩)⟩
  case host => exact hostTurn_pc hnoreset ((stepWith_of_hostHasControl _ hcontrol).symm.trans hstep)

/-- `s` with the stream `d`. -/
def State.setDiag (s : State) (d : List Byte) : State :=
  { s with diag := d }

/-- From `s`, whatever its stream, `f` appends the same events to it and does the same otherwise. -/
def EmitsOnly (f : State → State) (s : State) : Prop :=
  ∃ e, ∀ d, f (s.setDiag d) = (f s).setDiag (d ++ e)

theorem EmitsOnly.of_silent {f : State → State} {s : State} (h : ∀ d, f (s.setDiag d) = (f s).setDiag d) :
    EmitsOnly f s :=
  ⟨[], fun d => by rw [h, List.append_nil]⟩

theorem EmitsOnly.tick_of_unknown {c : Config} {s : State} (hq : s.seq = .decoding ∨ s.seq = .executing)
    (hnone : decodeOpcode c s.ir = none) : EmitsOnly (tick c) s := by
  have heq : ∀ d, tick c (s.setDiag d) = raiseHalt (.unknownOpcode s.ir) (s.setDiag d) := fun d => by
    obtain hq | hq := hq
    · exact tick_decoding_unknown (s := s.setDiag d) hq hnone
    · exact tick_executing_unknown (s := s.setDiag d) hq hnone
  exact ⟨[s.ir], fun d => by rw [heq, show tick c s = _ from heq s.diag]; rfl⟩

/-- Only a decode failure emits, and what a transition does besides does not depend on the stream. -/
theorem EmitsOnly.tick (c : Config) (s : State) : EmitsOnly (tick c) s := by
  cases hq : s.seq with
  | idle =>
    refine .of_silent fun d => ?_
    rw [tick_idle c hq, tick_idle c (s := s.setDiag d) hq]
    cases hm : mayStart c s with
    | false =>
      have hm' : mayStart c (s.setDiag d) = false := hm
      rw [hm', raiseHalt_outOfBudget, raiseHalt_outOfBudget]
      rfl
    | true =>
      have hm' : mayStart c (s.setDiag d) = true := hm
      rw [hm']
      rfl
  | fetching =>
    refine .of_silent fun d => ?_
    rw [tick_fetching c hq, tick_fetching c (s := s.setDiag d) hq]
    rfl
  | decoding =>
    cases hrow : decodeOpcode c s.ir with
    | none => exact tick_of_unknown (.inl hq) hrow
    | some row =>
      refine .of_silent fun d => ?_
      rw [tick_decoding_known hq hrow, tick_decoding_known (s := s.setDiag d) hq hrow]
      rfl
  | executing =>
    cases hrow : decodeOpcode c s.ir with
    | none => exact tick_of_unknown (.inr hq) hrow
    | some row =>
      refine .of_silent fun d => ?_
      rw [tick_executing_known hq hrow, tick_executing_known (s := s.setDiag d) hq hrow]
      cases row.mode <;> rfl
  | halted => exact .of_silent fun d => by rw [tick_halted c hq, tick_halted c (s := s.setDiag d) hq]

theorem EmitsOnly.ticks (c : Config) : ∀ (k : Nat) (s : State), EmitsOnly (ticks c k) s
  | 0, _ => .of_silent fun _ => rfl
  | k + 1, s => by
    obtain ⟨e, htick⟩ := EmitsOnly.tick c s
    obtain ⟨e', hticks⟩ := EmitsOnly.ticks c k (Machine.tick c s)
    refine ⟨e ++ e', fun d => ?_⟩
    rw [ticks_succ, ticks_succ, htick, hticks, List.append_assoc]

/-- No command of the host looks at the stream or emits. -/
theorem hostTurn_setDiag {s t : State} (hturn : hostTurn s = .next t) (d : List Byte) :
    hostTurn (s.setDiag d) = .next (t.setDiag d) := by
  obtain ⟨hcommands, rfl⟩ | ⟨hreset, rfl⟩ | ⟨budget, hexecute, hinit, rfl⟩ | ⟨addr, v, hwrite, rfl⟩ :=
    hostTurn_cases hturn
  · exact hostTurn_no_command (s := t.setDiag d) hcommands
  · exact hostTurn_reset (s := s.setDiag d) hreset
  · exact (hostTurn_execute (s := s.setDiag d) hexecute).trans (if_pos hinit)
  · exact hostTurn_write (s := s.setDiag d) hwrite

/-- A step does the same from any stream, and appends the same events to it. -/
theorem stepWith_setDiag {c : Config} {s t : State} (hstep : stepWith c s = .next t) :
    ∃ e, ∀ d, stepWith c (s.setDiag d) = .next (t.setDiag (d ++ e)) := by
  cases hcontrol : s.hostHasControl with
  | true =>
    rw [stepWith_of_hostHasControl c hcontrol] at hstep
    refine ⟨[], fun d => ?_⟩
    rw [stepWith_of_hostHasControl c (s := s.setDiag d) hcontrol, List.append_nil]
    exact hostTurn_setDiag hstep d
  | false =>
    have hturn : EngineTurn s := (hostHasControl_false_iff s).mp hcontrol
    obtain ⟨e, hticks⟩ := EmitsOnly.ticks c s.seq.ticksLeft s
    rw [stepEqualsTheFiveStateMachine c s hturn] at hstep
    obtain rfl := Host.Outcome.next.inj hstep
    exact ⟨e, fun d => (stepEqualsTheFiveStateMachine c (s.setDiag d) hturn).trans (congrArg _ (hticks d))⟩

/-- Settles O47: the events appended are the same from any stream, so from the own one too, and they are at most the
one of R110. -/
theorem diagnosticStreamIsNeverReadBack : Obligations.DiagnosticStreamIsNeverReadBack := by
  intro s t d hstep
  obtain ⟨e, hany⟩ := stepWith_setDiag hstep
  have hown : t = t.setDiag (s.diag ++ e) := Host.Outcome.next.inj (hstep.symm.trans (hany s.diag))
  have hdiag : t.diag = s.diag ++ e := congrArg State.diag hown
  refine ⟨e, hdiag, hany d, ?_⟩
  obtain ⟨hhalted, hcause, hevent⟩ | ⟨hsame, -⟩ := oneDiagnosticPerUnknownOpcode s t hstep
  · exact .inr ⟨hcause, hhalted, List.append_cancel_left (hdiag.symm.trans hevent)⟩
  · exact .inl (List.append_right_eq_self.mp (hdiag.symm.trans hsame))

/-- At a boundary another byte in the latch is overwritten, or stays through a halt out of budget. -/
theorem stepWith_latch (c : Config) {s : State} (hb : AtBoundary s) (b : Byte) :
    ∃ t b', stepWith c s = .next t ∧ stepWith c (s.latch b) = .next (t.latch b') := by
  obtain ⟨hm, hstep⟩ | ⟨hm, hnone, hstep⟩ | ⟨hm, i, row, hdec, -, -, -⟩ := stepWith_boundary_cases c hb
  · exact ⟨_, b, hstep, stepWith_of_not_mayStart (s := s.latch b) hb hm⟩
  · exact ⟨_, (rejectOpcode s).ir, hstep, stepWith_of_unknown (s := s.latch b) ⟨hb, hm⟩ hnone⟩
  · have hstep := stepWith_of_decoded ⟨hb, hm⟩ hdec
    have hstep' := stepWith_of_decoded (s := s.latch b) ⟨hb, hm⟩ hdec
    exact ⟨_, _, hstep.trans (exec_eq_opLda i _), hstep'.trans (exec_eq_opLda i _)⟩

/-- The host does not see the latch. -/
theorem State.observe_latch (s : State) (b : Byte) : (s.latch b).observe = s.observe := rfl

/-- Settles O48: the two next states differ at most in the latch, which the host's read leaves out. -/
theorem opcodeLatchIsNotObservable : Obligations.OpcodeLatchIsNotObservable := by
  intro s b hb
  obtain ⟨t, b', hstep, hstep'⟩ := stepWith_latch Config.chosen hb b
  exact ⟨t, t.latch b', hstep, hstep', rfl, t.observe_latch b'⟩

end Sys2Proof.Machine
end
